-- ==== Sys2Proof/Word.lean ====
section
/-! DEFINITION. The words of the x68k-hid encoder: bytes, legacy scan codes and wrap-around truncation (00_scope.md R7, R8). -/

namespace Sys2Proof

/-- `u8`: a payload byte, a HID usage code, a modifier mask (R7). -/
abbrev Byte := BitVec 8

/-- `u7`: a legacy scan code (R11, R40). -/
abbrev ScanCode := BitVec 7

end Sys2Proof
end

