-- ==== Sys2Proof/Config.lean ====
section
/-! DEFINITION. The `Config` record of 00_scope.md R6: what an implementation fixes, a parameter of the step function and no state (R11). -/

namespace Sys2Proof

/-- The open fields of the `Config` record (R6, D21): `KEY_TABLE` (its length is `KEY_LEN`) and `MOD_SCAN`.
Nothing else may be assumed of them (R110): no injectivity, no avoidance of 0 or of each other's codes. -/
structure Config where
  /-- `KEY_TABLE`, entry `i` for the usage code `KEY_BASE + i`. -/
  keyTable : List ScanCode
  /-- `MOD_SCAN`, indexed by modifier bit 0..7. -/
  modScan : Fin 8 → ScanCode
deriving Inhabited

/-- `KEY_BASE`: the lowest alphabetic HID usage code (R6). UNVERIFIED: the value is R6's, which the spec itself took from general
knowledge (G2); log 5; unsafe. -/
def Config.keyBase : Nat := 4

/-- `KEY_LEN`, with R6's bound `KEY_BASE + KEY_LEN <= 256` built in: entries past it have no usage code. -/
def Config.keyLen (c : Config) : Nat := min c.keyTable.length (256 - Config.keyBase)

/-- `ACC_WIDTH`: none is `unbounded`, the value R6 gives; `State.accDx` and `State.accDy` are therefore integers (R15). Log 6. -/
def Config.accWidth : Option Nat := none

/-- `DELAY_RESET_MS` (R6, R24). -/
def Config.delayResetMs : BitVec 16 := 500

/-- `INTERVAL_RESET_MS` (R6, R25). -/
def Config.intervalResetMs : BitVec 16 := 110

/-- The tables this block was built with. The spec gives no entry of either (R6 OPEN, D21, U1, U2), so the constant has no
body: whatever is proved of the machine holds for every table. Log 4; safe. -/
opaque Config.installed : Config

end Sys2Proof
end

