-- ==== Sys2Proof/Syntax.lean ====
section
/-! DEFINITION. Ports, port transfers, output events, and the one inductive `Instr`: a constructor for every row of
spec/opcode_table.json. -/

namespace Sys2Proof

/-- The nine input ports, one per `InputOp` of 00_scope.md R3. Which port a transfer arrives on is part of its encoding (30_encoding.md R64). -/
inductive InPort where
  | reset | kbdReport | mouseReport | ctrlByte | tick | inhibitFall | inhibitRise | mreqFall | mreqRise
deriving DecidableEq, Repr

/-- The two output ports that carry bytes (R4, D23). The activity trigger carries no data and has no row in the table. -/
inductive OutPort where
  | kbdTx | mouseTx
deriving DecidableEq, Repr

/-- The "port" column of spec/opcode_table.json. -/
inductive Port where
  | input (p : InPort)
  | output (p : OutPort)
deriving DecidableEq, Repr

/-- One transfer presented to the block by its environment: the port, and the payload bytes, first byte leftmost in the
table's pattern (log 3). -/
structure Input where
  port : InPort
  payload : List Byte
deriving DecidableEq, Repr

/-- The output events of R4. -/
inductive OutputEvent where
  /-- one byte to the legacy serial link, keyboard direction -/
  | kbdTx (b : Byte)
  /-- one 3-byte packet to the legacy serial link, mouse direction, in the order b0, b1, b2 -/
  | mouseTx (b0 b1 b2 : Byte)
  /-- one activity trigger, no data -/
  | act
deriving DecidableEq, Repr

/-- The rows of spec/opcode_table.json. The operand bits that a rule ignores are kept, so that an encoding loses no bit (log 8). -/
inductive Instr where
  /-- MSCTRL, `01000--m` (R65 row 1, R152): `m = b[0]`, ignored bits `b[2:1]`. -/
  | msctrl (m : BitVec 1) (ignored : BitVec 2)
  /-- LEDBRT, `010101vv` (R153). -/
  | ledbrt (v : BitVec 2)
  /-- KEYINH, `01011--k` (R154): `k = b[0]`, ignored bits `b[2:1]`. -/
  | keyinh (k : BitVec 1) (ignored : BitVec 2)
  /-- RPTDLY, `0110dddd` (R155). -/
  | rptdly (d : BitVec 4)
  /-- RPTINT, `0111rrrr` (R156). -/
  | rptint (r : BitVec 4)
  /-- LEDSET, `1lllllll` (R157). -/
  | ledset (l : BitVec 7)
  /-- CTRL_NOP, bytes 0x00..0x3F (R66, R158). -/
  | ctrlNop00 (ignored : BitVec 6)
  /-- CTRL_NOP, bytes 0x48..0x4F (R66, R158). -/
  | ctrlNop48 (ignored : BitVec 3)
  /-- CTRL_NOP, bytes 0x50..0x53 (R66, R158). -/
  | ctrlNop50 (ignored : BitVec 2)
  /-- RESET (R240). -/
  | reset
  /-- KBD_REPORT(mod, k0..k5) (R60, R90). -/
  | kbdReport (mod k0 k1 k2 k3 k4 k5 : Byte)
  /-- MOUSE_REPORT(buttons, x, y) (R62, R130); `x` and `y` are signed bytes. -/
  | mouseReport (buttons x y : Byte)
  /-- CTRL_BYTE(b), the control byte before its command is selected (R63, R150; log 8). -/
  | ctrlByte (b : Byte)
  /-- TICK(e), `e` the elapsed milliseconds (R173, R174). -/
  | tick (e : Nat)
  /-- INHIBIT_FALL (R190). -/
  | inhibitFall
  /-- INHIBIT_RISE (R191). -/
  | inhibitRise
  /-- MREQ_FALL (R193). -/
  | mreqFall
  /-- MREQ_RISE (R194). -/
  | mreqRise
  /-- KBD_TX, `bsssssss`: the OUTPUT event of one key byte (R68, R116; log 7). -/
  | kbdTx (brk : Bool) (scan : ScanCode)
  /-- MOUSE_TX, `NnPp00rl` `dx` `dy`: the OUTPUT event of one mouse packet (R69, R132; log 7). -/
  | mouseTx (yon yop xon xop right left : Bool) (dx dy : Byte)
deriving DecidableEq, Repr

end Sys2Proof
end

