-- ==== Sys2Proof/WellFormed.lean ====
section
/-! DEFINITION. The checks on a row's operands that its type does not already make. -/

namespace Sys2Proof

/-- R173: `TICK(e)` carries `0 <= e <= 2^31 - 1`. -/
def Instr.tickInRange : Instr → Bool
  | .tick e => decide (e < 2 ^ 31)
  | _ => true

/-- R69: `XOP` and `XON` are never both 1. -/
def Instr.xOverflowExclusive : Instr → Bool
  | .mouseTx _ _ xon xop _ _ _ _ => !(xon && xop)
  | _ => true

/-- R69: nor `YOP` and `YON`. -/
def Instr.yOverflowExclusive : Instr → Bool
  | .mouseTx yon yop _ _ _ _ _ _ => !(yon && yop)
  | _ => true

/-- An instruction whose operands the spec's formats allow. -/
def Instr.wf (i : Instr) : Bool := i.tickInRange && i.xOverflowExclusive && i.yOverflowExclusive

/-- The rows with direction "input" of the table: the operations of 00_scope.md R3 and the commands of CTRL_BYTE. -/
def Instr.isInput : Instr → Bool
  | .kbdTx .. | .mouseTx .. => false
  | .msctrl .. | .ledbrt .. | .keyinh .. | .rptdly .. | .rptint .. | .ledset .. | .ctrlNop00 .. | .ctrlNop48 ..
  | .ctrlNop50 .. | .reset | .kbdReport .. | .mouseReport .. | .ctrlByte .. | .tick .. | .inhibitFall | .inhibitRise
  | .mreqFall | .mreqRise => true

end Sys2Proof
end

