-- ==== Sys2Proof/Decode.lean ====
section
/-! DEFINITION. The decoder (30_encoding.md), total on any port and any bytes and refusing by name, then the encoder, written
from the same formats. -/

namespace Sys2Proof

/-- Why bytes on a port are no operation of that port. -/
inductive DecodeError where
  /-- the format is of fixed length (R60, R62, R63, R64) and the payload is not of it -/
  | wrongLength (expected got : Nat)
  /-- a TICK of `2^31` milliseconds or more (R173) -/
  | tickOutOfRange
  /-- bits 3:2 of byte 0 of a mouse packet are not 0 (R69) -/
  | packetReservedBits
  /-- both overflow flags of one axis are set in a mouse packet (R69) -/
  | packetBothOverflows
deriving DecidableEq, Repr

/-- The opcode map of R65 and R66 as data: mnemonic, mask and match, in the source's order. -/
structure CtrlRow where
  mnemonic : String
  mask : Byte
  pattern : Byte
deriving DecidableEq, Repr

/-- `(b AND mask) == match` (R65). -/
def CtrlRow.selects (r : CtrlRow) (b : Byte) : Bool := b &&& r.mask == r.pattern

/-- The six commands of R65 in checking order, then the three reserved patterns of R66. -/
def ctrlRows : List CtrlRow :=
  [⟨"MSCTRL", 0xF8, 0x40⟩, ⟨"LEDBRT", 0xFC, 0x54⟩, ⟨"KEYINH", 0xF8, 0x58⟩, ⟨"RPTDLY", 0xF0, 0x60⟩,
   ⟨"RPTINT", 0xF0, 0x70⟩, ⟨"LEDSET", 0x80, 0x80⟩,
   ⟨"CTRL_NOP.00", 0xC0, 0x00⟩, ⟨"CTRL_NOP.48", 0xF8, 0x48⟩, ⟨"CTRL_NOP.50", 0xFC, 0x50⟩]

/-- The command a control byte selects: first match in the listed order (R65, R150); what no command matches is one of the
three reserved ranges (R66). Operands are plain slices of the byte (R67). -/
def decodeCtrl (b : Byte) : Instr :=
  if b &&& 0xF8 = 0x40 then .msctrl (b.extractLsb' 0 1) (b.extractLsb' 1 2)
  else if b &&& 0xFC = 0x54 then .ledbrt (b.extractLsb' 0 2)
  else if b &&& 0xF8 = 0x58 then .keyinh (b.extractLsb' 0 1) (b.extractLsb' 1 2)
  else if b &&& 0xF0 = 0x60 then .rptdly (b.extractLsb' 0 4)
  else if b &&& 0xF0 = 0x70 then .rptint (b.extractLsb' 0 4)
  else if b &&& 0x80 = 0x80 then .ledset (b.extractLsb' 0 7)
  else if b &&& 0xC0 = 0x00 then .ctrlNop00 (b.extractLsb' 0 6)
  else if b &&& 0xF8 = 0x48 then .ctrlNop48 (b.extractLsb' 0 3)
  else .ctrlNop50 (b.extractLsb' 0 2)

/-- The number written by payload bytes, first byte most significant (log 3). -/
def numberOfBytes (bs : List Byte) : Nat := bs.foldl (fun n b => n * 256 + b.toNat) 0

/-- The `n` payload bytes that write a number, most significant first (log 3); bits above `8 * n` are not among them. -/
def bytesOfNumber : Nat → Nat → List Byte
  | 0, _ => []
  | n + 1, w => BitVec.ofNat 8 (w >>> (8 * n)) :: bytesOfNumber n w

/-- How many payload bytes a transfer on an input port has (R60, R62, R63, R64). TICK's four are the table's 32-bit pattern. -/
def InPort.payloadBytes : InPort → Nat
  | .kbdReport => 7
  | .mouseReport => 3
  | .ctrlByte => 1
  | .tick => 4
  | .reset | .inhibitFall | .inhibitRise | .mreqFall | .mreqRise => 0

/-- Format NONE (R64): the port is the whole of the encoding. -/
def decodeNone (i : Instr) : List Byte → Except DecodeError Instr
  | [] => .ok i
  | bs => .error (.wrongLength 0 bs.length)

/-- Format KBD (R60). -/
def decodeKbd : List Byte → Except DecodeError Instr
  | [m, k0, k1, k2, k3, k4, k5] => .ok (.kbdReport m k0 k1 k2 k3 k4 k5)
  | bs => .error (.wrongLength 7 bs.length)

/-- Format MOUSE (R62). -/
def decodeMouse : List Byte → Except DecodeError Instr
  | [buttons, x, y] => .ok (.mouseReport buttons x y)
  | bs => .error (.wrongLength 3 bs.length)

/-- Format CTRL (R63). -/
def decodeCtrlByte : List Byte → Except DecodeError Instr
  | [b] => .ok (decodeCtrl b)
  | bs => .error (.wrongLength 1 bs.length)

/-- Format TIME: the number `e` of R64 and R173, below `2^31`. -/
def decodeTime (bs : List Byte) : Except DecodeError Instr :=
  if bs.length ≠ 4 then .error (.wrongLength 4 bs.length)
  else if numberOfBytes bs < 2 ^ 31 then .ok (.tick (numberOfBytes bs))
  else .error .tickOutOfRange

/-- Format KEYBYTE (R68). -/
def decodeKeyByte : List Byte → Except DecodeError Instr
  | [b] => .ok (.kbdTx (b.getLsbD 7) (b.extractLsb' 0 7))
  | bs => .error (.wrongLength 1 bs.length)

/-- Format MOUSEPKT (R69): bits 3:2 of byte 0 are 0, and no axis has both of its overflow flags. -/
def decodePacket : List Byte → Except DecodeError Instr
  | [b0, b1, b2] =>
      if b0.extractLsb' 2 2 ≠ 0 then .error .packetReservedBits
      else if (b0.getLsbD 7 && b0.getLsbD 6) || (b0.getLsbD 5 && b0.getLsbD 4) then .error .packetBothOverflows
      else .ok (.mouseTx (b0.getLsbD 7) (b0.getLsbD 6) (b0.getLsbD 5) (b0.getLsbD 4) (b0.getLsbD 1) (b0.getLsbD 0) b1 b2)
  | bs => .error (.wrongLength 3 bs.length)

/-- The operation a transfer on an input port is. -/
def decodeInput : InPort → List Byte → Except DecodeError Instr
  | .reset, bs => decodeNone .reset bs
  | .kbdReport, bs => decodeKbd bs
  | .mouseReport, bs => decodeMouse bs
  | .ctrlByte, bs => decodeCtrlByte bs
  | .tick, bs => decodeTime bs
  | .inhibitFall, bs => decodeNone .inhibitFall bs
  | .inhibitRise, bs => decodeNone .inhibitRise bs
  | .mreqFall, bs => decodeNone .mreqFall bs
  | .mreqRise, bs => decodeNone .mreqRise bs

/-- The output event that bytes on an output port are, as the legacy host reads them (R68, R69). -/
def decodeOutput : OutPort → List Byte → Except DecodeError Instr
  | .kbdTx, bs => decodeKeyByte bs
  | .mouseTx, bs => decodePacket bs

/-- The row of the table that bytes on a port are. -/
def decode : Port → List Byte → Except DecodeError Instr
  | .input p, bs => decodeInput p bs
  | .output p, bs => decodeOutput p bs

/-- The key byte's layout (R68): bit 7 is the break flag, bits 6:0 the scan code. -/
def keyByteLayout (brk : Bool) (scan : ScanCode) : Byte := BitVec.ofBool brk ++ scan

/-- Byte 0 of the mouse packet (R69): `YON YOP XON XOP 0 0 R L`, bit 7 first. -/
def packetByte0Layout (yon yop xon xop right left : Bool) : Byte :=
  BitVec.ofBool yon ++ BitVec.ofBool yop ++ BitVec.ofBool xon ++ BitVec.ofBool xop ++ (0 : BitVec 2)
    ++ BitVec.ofBool right ++ BitVec.ofBool left

/-- The port and the payload bytes of a row (R60 to R69). -/
def encode : Instr → Port × List Byte
  | .msctrl m x => (.input .ctrlByte, [(0b01000 : BitVec 5) ++ x ++ m])
  | .ledbrt v => (.input .ctrlByte, [(0b010101 : BitVec 6) ++ v])
  | .keyinh k x => (.input .ctrlByte, [(0b01011 : BitVec 5) ++ x ++ k])
  | .rptdly d => (.input .ctrlByte, [(0b0110 : BitVec 4) ++ d])
  | .rptint r => (.input .ctrlByte, [(0b0111 : BitVec 4) ++ r])
  | .ledset l => (.input .ctrlByte, [(0b1 : BitVec 1) ++ l])
  | .ctrlNop00 x => (.input .ctrlByte, [(0b00 : BitVec 2) ++ x])
  | .ctrlNop48 x => (.input .ctrlByte, [(0b01001 : BitVec 5) ++ x])
  | .ctrlNop50 x => (.input .ctrlByte, [(0b010100 : BitVec 6) ++ x])
  | .reset => (.input .reset, [])
  | .kbdReport m k0 k1 k2 k3 k4 k5 => (.input .kbdReport, [m, k0, k1, k2, k3, k4, k5])
  | .mouseReport buttons x y => (.input .mouseReport, [buttons, x, y])
  | .ctrlByte b => (.input .ctrlByte, [b])
  | .tick e => (.input .tick, bytesOfNumber 4 e)
  | .inhibitFall => (.input .inhibitFall, [])
  | .inhibitRise => (.input .inhibitRise, [])
  | .mreqFall => (.input .mreqFall, [])
  | .mreqRise => (.input .mreqRise, [])
  | .kbdTx brk scan => (.output .kbdTx, [keyByteLayout brk scan])
  | .mouseTx yon yop xon xop right left dx dy =>
      (.output .mouseTx, [packetByte0Layout yon yop xon xop right left, dx, dy])

/-- The transfer that presents an input operation to the block; none for the two output events. -/
def encodeInput (i : Instr) : Option Input :=
  match encode i with
  | (.input p, bs) => some ⟨p, bs⟩
  | (.output _, _) => none

/-- The input port a table word of `nbits` bits is for. The width decides, but for the five rows without payload: those the
number itself tells apart, in table order (log 3). -/
def portOfWidth (nbits selector : Nat) : Option InPort :=
  match nbits, selector with
  | 0, 0 => some .reset
  | 0, 1 => some .inhibitFall
  | 0, 2 => some .inhibitRise
  | 0, 3 => some .mreqFall
  | 0, 4 => some .mreqRise
  | 8, 0 => some .ctrlByte
  | 24, 0 => some .mouseReport
  | 32, 0 => some .tick
  | 56, 0 => some .kbdReport
  | _, _ => none

/-- The transfer whose payload is the table word `w` of `nbits` bits: leftmost byte of the pattern first (log 3). -/
def inputOfTableWord (nbits w : Nat) : Option Input :=
  match portOfWidth nbits (w >>> nbits) with
  | some p => some ⟨p, bytesOfNumber p.payloadBytes w⟩
  | none => none

/-- The instruction the decoder reads from a table word. -/
def decodeTableWord (nbits w : Nat) : Option Instr :=
  match inputOfTableWord nbits w with
  | none => none
  | some t =>
    match decodeInput t.port t.payload with
    | .ok i => some i
    | .error _ => none

end Sys2Proof
end

