-- ==== Sys2Proof/Machine/State.lean ====
section
/-! DEFINITION. The state of the block (10_state.md R10), its value after reset (R13 to R26, R240), and the reasons a step can stop. -/

namespace Sys2Proof.Machine

/-- The block raises no exception and has no cause codes (R210): a step never faults, so there is no reason to name.
Raised by nobody; safe (log 10). -/
inductive Fault
deriving DecidableEq, Repr

/-- Why a step has no meaning. -/
inductive Refusal where
  /-- An instruction whose meaning is not written. Raised by no arm of `exec`; safe. -/
  | notModelled (mnemonic : String)
  /-- The transfer at the head of `inputs` is none of the input operations of R3: its payload is not of its port's fixed length
  (R45, R60 to R64), or it is a TICK of `2^31` or more (R173, D9). Raised by `step`; safe (log 9). -/
  | malformedTransfer (port : InPort) (reason : DecodeError)
deriving DecidableEq, Repr

/-- The six key slots of a keyboard snapshot, in report order (R14, R60). -/
structure KeySlots where
  k0 : Byte
  k1 : Byte
  k2 : Byte
  k3 : Byte
  k4 : Byte
  k5 : Byte
deriving DecidableEq, Repr

/-- The slots 0..5 in order, for the loops of R92 and R93. -/
def KeySlots.toList (k : KeySlots) : List Byte := [k.k0, k.k1, k.k2, k.k3, k.k4, k.k5]

/-- The fifteen registers of R10, and the model's own two sequences (log 1, log 2). -/
structure State where
  /-- prev_mod : u8 (R13) -/
  prevMod : Byte
  /-- prev_keys[0..5] : 6 x u8 (R14) -/
  prevKeys : KeySlots
  /-- acc_dx : Int (R15) -/
  accDx : Int
  /-- acc_dy : Int (R15) -/
  accDy : Int
  /-- btn_left : bool (R16) -/
  btnLeft : Bool
  /-- btn_right : bool (R16) -/
  btnRight : Bool
  /-- held_scan_code : u8, 0 = Idle (R17) -/
  heldScanCode : Byte
  /-- countdown_ms : i32, read signed (R18) -/
  countdownMs : BitVec 32
  /-- mouse_control_asserted : bool (R21) -/
  mouseControlAsserted : Bool
  /-- led_brightness : u2 (R22) -/
  ledBrightness : BitVec 2
  /-- key_inhibit : bool (R23) -/
  keyInhibit : Bool
  /-- repeat_delay_ms : u16 (R24) -/
  repeatDelayMs : BitVec 16
  /-- repeat_interval_ms : u16 (R25) -/
  repeatIntervalMs : BitVec 16
  /-- led_state : u7 (R26) -/
  ledState : BitVec 7
  /-- transmit_inhibited : bool (R19) -/
  transmitInhibited : Bool
  /-- The model's own: the environment's input sequence that is still to come, next transfer first (R3, R12 (a); log 1). -/
  inputs : List Input
  /-- The model's own: the output events of the run so far, in emission order (R3, R4, R47; log 2). Never read by an operation. -/
  outputs : List OutputEvent
deriving DecidableEq, Repr

/-- The machine right after RESET (R240): the reset value of every register, no input waiting and nothing emitted. -/
def State.reset : State where
  prevMod := 0
  prevKeys := ⟨0, 0, 0, 0, 0, 0⟩
  accDx := 0
  accDy := 0
  btnLeft := false
  btnRight := false
  heldScanCode := 0
  countdownMs := 0
  mouseControlAsserted := false
  ledBrightness := 0
  keyInhibit := false
  repeatDelayMs := Config.delayResetMs
  repeatIntervalMs := Config.intervalResetMs
  ledState := 0
  transmitInhibited := false
  inputs := []
  outputs := []

/-- The level outputs of the block (R29). -/
structure LevelOutputs where
  ledState : BitVec 7
  ledBrightness : BitVec 2
  keyInhibit : Bool
  mouseControlAsserted : Bool
deriving DecidableEq, Repr

/-- One key transition of the Differencer (R11, R114): scan code, direction, and whether it comes from the modifier byte. -/
structure KeyEvent where
  scan : ScanCode
  isMake : Bool
  isModifier : Bool
deriving DecidableEq, Repr

/-- The two read-only table spaces of R40. -/
inductive TableSpace where
  | keytab | modtab
deriving DecidableEq, Repr

/-- The four classes of usage byte (R70). -/
inductive UsageClass where
  | empty | reserved | mapped | unmapped
deriving DecidableEq, Repr

end Sys2Proof.Machine
end

