-- ==== Sys2Proof/Machine/Operands.lean ====
section
/-! DEFINITION. The operand forms: how each rule reads the operands its format carries. -/

namespace Sys2Proof.Machine

/-- Bit `i` of a value, as a boolean (R7). -/
def bit {n : Nat} (v : BitVec n) (i : Nat) : Bool := v.getLsbD i

/-- `sext_Int`: a motion byte as a signed integer (R8, R67, R130). -/
def motion (v : Byte) : Int := v.toInt

/-- `zext_8` of a scan code (R17, R115, R172). -/
def scanByte (scan : ScanCode) : Byte := scan.zeroExtend 8

/-- Bits 6:0 of a byte, as `MemRead(..)[6:0]` and `held_scan_code[6:0]` take them (R91, R111, R174). -/
def scanOfByte (b : Byte) : ScanCode := b.extractLsb' 0 7

/-- `zext_32` of a repeat time (R172, R174). -/
def msWord (ms : BitVec 16) : BitVec 32 := ms.zeroExtend 32

/-- `200 + zext_16(d) * 100` (R155). -/
def delayMs (d : BitVec 4) : BitVec 16 := 200 + d.zeroExtend 16 * 100

/-- `30 + zext_16(r) * zext_16(r) * 5` (R156). -/
def intervalMs (r : BitVec 4) : BitVec 16 := 30 + r.zeroExtend 16 * r.zeroExtend 16 * 5

/-- A button bit: bit 0 left, bit 1 right, bits 7:2 ignored (R62). -/
def leftButton (buttons : Byte) : Bool := bit buttons 0

/-- See `leftButton`. -/
def rightButton (buttons : Byte) : Bool := bit buttons 1

/-- The active-low operand of MSCTRL and KEYINH: `b[0] == 0` (R152, R154). -/
def activeLow (v : BitVec 1) : Bool := v == 0

/-- A usage code that may generate an event: not 0 and not the reserved 1, 2, 3 (R70, R92, R93). -/
def reportable (u : Byte) : Bool := decide (3 < u.toNat)

end Sys2Proof.Machine
end

