-- ==== Sys2Proof/Machine/Flags.lean ====
section
/-! DEFINITION. The flag-like values of 10_state.md R27: the four overflow flags of a mouse packet, the make/break bit of a key byte, Idle/Armed. -/

namespace Sys2Proof.Machine

/-- Overflow-positive of an axis, on the full accumulated integer (R133). -/
def overflowPos (v : Int) : Bool := decide (127 < v)

/-- Overflow-negative of an axis, on the full accumulated integer (R133). -/
def overflowNeg (v : Int) : Bool := decide (v < -128)

/-- `trunc8` (R8): the byte equal to `v mod 256`; it wraps and does not saturate (R135). -/
def trunc8 (v : Int) : Byte := BitVec.ofInt 8 v

/-- `MouseByte0` (R133). -/
def mouseByte0 (left right : Bool) (dx dy : Int) : Byte :=
  packetByte0Layout (overflowNeg dy) (overflowPos dy) (overflowNeg dx) (overflowPos dx) right left

/-- `KeyByte` (R115): bit 7 is 0 for a make and 1 for a break. -/
def keyByte (scan : ScanCode) (isMake : Bool) : Byte := keyByteLayout (!isMake) scan

/-- Armed (R17, R170): the Repeat Timer holds a key. -/
def State.armed (s : State) : Bool := s.heldScanCode != 0

/-- An all-zero packet, for which no activity is triggered (R134). -/
def packetIsZero (b0 b1 b2 : Byte) : Bool := b0 == 0 && b1 == 0 && b2 == 0

end Sys2Proof.Machine
end

