-- ==== Sys2Proof/Machine/Ops.lean ====
section
/-! DEFINITION. The named procedures that the operations share: table reads (20_memory.md), the keyboard procedures of
41_keycode_table_and_key_encoder.md, `RepeatTrack`, the mouse transmission of 42_mouse.md, and fetching the next transfer. There is
no exception to take and none to return from (60_exceptions.md R210, R218, R219). -/

namespace Sys2Proof.Machine

/-- `MemRead(space, index, 1)` (R8, R40, R42): an entry is a 7-bit scan code in a byte with bit 7 zero; out of range there is none. -/
def memRead (cfg : Config) : TableSpace → Nat → Option Byte
  | .keytab, i => ((cfg.keyTable.take cfg.keyLen)[i]?).map scanByte
  | .modtab, i => if h : i < 8 then some (scanByte (cfg.modScan ⟨i, h⟩)) else none

/-- `KeyLookup` (R111): a dense lookup in the range of the table, none outside it. -/
def keyLookup (cfg : Config) (u : Byte) : Option ScanCode :=
  if Config.keyBase ≤ u.toNat ∧ u.toNat < Config.keyBase + cfg.keyLen then
    (memRead cfg .keytab (u.toNat - Config.keyBase)).map scanOfByte
  else none

/-- The class of a usage byte (R70). -/
def usageClass (cfg : Config) (u : Byte) : UsageClass :=
  if u = 0 then .empty
  else if u.toNat ≤ 3 then .reserved
  else if Config.keyBase ≤ u.toNat ∧ u.toNat < Config.keyBase + cfg.keyLen then .mapped
  else .unmapped

/-- `emit` (R8). -/
def State.emit (e : OutputEvent) (s : State) : State := { s with outputs := s.outputs ++ [e] }

/-- `SendKeyByte` (R116): the byte, then its activity trigger, or nothing at all while inhibited. -/
def sendKeyByte (scan : ScanCode) (isMake : Bool) (s : State) : State :=
  if s.transmitInhibited then s
  else (s.emit (.kbdTx (keyByte scan isMake))).emit .act

/-- Arming (R172): the held key and the delay as it stands. -/
def State.arm (scan : ScanCode) (s : State) : State :=
  { s with heldScanCode := scanByte scan, countdownMs := msWord s.repeatDelayMs }

/-- Clearing (R175): Idle; the countdown keeps its value (R18). -/
def State.disarm (s : State) : State := { s with heldScanCode := 0 }

/-- `RepeatTrack` (R171): a non-modifier make arms; then a break of the held scan code clears. -/
def repeatTrack (e : KeyEvent) (s : State) : State :=
  let s := if e.isMake && !e.isModifier then s.arm e.scan else s
  if !e.isMake && s.heldScanCode == scanByte e.scan then s.disarm else s

/-- `KeyEvent` (R114): the Repeat Timer sees every event, also while inhibited; then the byte goes to the gate. -/
def keyEvent (e : KeyEvent) (s : State) : State := sendKeyByte e.scan e.isMake (repeatTrack e s)

/-- Key events in order, each acting on the state the one before it left. -/
def keyEvents (es : List KeyEvent) (s : State) : State := es.foldl (fun s e => keyEvent e s) s

/-- The events of the modifier pass (R91): each changed bit, bit 0 first. -/
def modifierEvents (cfg : Config) (old new : Byte) : List KeyEvent :=
  (List.range 8).filterMap fun i =>
    if bit (old ^^^ new) i then (memRead cfg .modtab i).map fun b => ⟨scanOfByte b, bit new i, true⟩ else none

/-- The usage codes in `xs` that may generate an event and are absent from `ys`, in the order of `xs` (R92, R93). Every slot
of `xs` counts by itself (R95); presence compares raw codes in any slot (R92, R96). -/
def leaving (xs ys : KeySlots) : List Byte :=
  xs.toList.filter fun u => reportable u && !(ys.toList.contains u)

/-- The events of usage codes that all go one way; an unmapped code has none (R111, R112). -/
def codeEvents (cfg : Config) (isMake : Bool) (us : List Byte) : List KeyEvent :=
  us.filterMap fun u => (keyLookup cfg u).map fun scan => ⟨scan, isMake, false⟩

/-- `ModifierPass` (R91). -/
def modifierPass (cfg : Config) (old new : Byte) (s : State) : State := keyEvents (modifierEvents cfg old new) s

/-- `BreakPass` (R92): codes of the old snapshot that the new one lacks. -/
def breakPass (cfg : Config) (old new : KeySlots) (s : State) : State :=
  keyEvents (codeEvents cfg false (leaving old new)) s

/-- `MakePass` (R93): codes of the new snapshot that the old one lacks. -/
def makePass (cfg : Config) (old new : KeySlots) (s : State) : State :=
  keyEvents (codeEvents cfg true (leaving new old)) s

/-- `KBD_REPORT` (R90): modifiers, breaks, makes, and last the snapshot (R94). -/
def kbdReport (cfg : Config) (mod : Byte) (keys : KeySlots) (s : State) : State :=
  let s := modifierPass cfg s.prevMod mod s
  let s := breakPass cfg s.prevKeys keys s
  let s := makePass cfg s.prevKeys keys s
  { s with prevMod := mod, prevKeys := keys }

/-- The emission of one packet (R132, R134, R136): nothing while inhibited; otherwise the packet, an activity trigger unless
all three bytes are zero, and the accumulator cleared. -/
def sendMousePacket (b0 b1 b2 : Byte) (s : State) : State :=
  if s.transmitInhibited then s
  else
    let s := s.emit (.mouseTx b0 b1 b2)
    let s := if packetIsZero b0 b1 b2 then s else s.emit .act
    { s with accDx := 0, accDy := 0 }

/-- `MouseTransmitAttempt` (R132): the packet that the accumulator and the latches encode to, through the gate. -/
def mouseTransmitAttempt (s : State) : State :=
  sendMousePacket (mouseByte0 s.btnLeft s.btnRight s.accDx s.accDy) (trunc8 s.accDx) (trunc8 s.accDy) s

/-- `MOUSE_REPORT` (R130): exact signed sums (R131), the latches replaced. -/
def mouseReport (buttons x y : Byte) (s : State) : State :=
  { s with accDx := s.accDx + motion x, accDy := s.accDy + motion y,
           btnLeft := leftButton buttons, btnRight := rightButton buttons }

/-- `TICK` (R174). The difference is taken on integers, so that no value of the countdown makes it wrap (R30 (d); log 20);
where it is positive it is at most the old countdown and fits. -/
def tick (e : Nat) (s : State) : State :=
  if s.heldScanCode = 0 then s
  else if s.countdownMs.toInt - e ≤ 0 then
    { sendKeyByte (scanOfByte s.heldScanCode) true s with countdownMs := msWord s.repeatIntervalMs }
  else { s with countdownMs := BitVec.ofInt 32 (s.countdownMs.toInt - e) }

/-- MSCTRL (R152): the register first, then an attempt on a false-to-true transition. -/
def setMouseControl (asserted : Bool) (s : State) : State :=
  let s' := { s with mouseControlAsserted := asserted }
  if !s.mouseControlAsserted && asserted then mouseTransmitAttempt s' else s'

/-- `RESET` (R240): every register at its reset value. The input still to come and the output already emitted are the run's,
not the block's, and stay (log 21). -/
def resetRegisters (s : State) : State := { State.reset with inputs := s.inputs, outputs := s.outputs }

/-- The level outputs follow their registers at once (R29). -/
def State.levelOutputs (s : State) : LevelOutputs :=
  ⟨s.ledState, s.ledBrightness, s.keyInhibit, s.mouseControlAsserted⟩

/-- The next transfer of the input sequence and the state it is performed in: the same, with the transfer consumed (R3, R47; log 1). -/
def State.fetch (s : State) : Option (Input × State) :=
  match s.inputs with
  | [] => none
  | t :: rest => some (t, { s with inputs := rest })

end Sys2Proof.Machine
end

