-- ==== Sys2Proof/Machine/Control.lean ====
section
/-! DEFINITION. The meanings of the control commands (43_control_decoder.md). Each writes one register (R159). -/

namespace Sys2Proof.Machine

/-- MSCTRL (R152). -/
def execMsctrl (m : BitVec 1) (_ignored : BitVec 2) (s : State) : Host.Outcome State Fault Refusal :=
  .next (setMouseControl (activeLow m) s)

/-- LEDBRT (R153). -/
def execLedbrt (v : BitVec 2) (s : State) : Host.Outcome State Fault Refusal :=
  .next { s with ledBrightness := v }

/-- KEYINH (R154). -/
def execKeyinh (k : BitVec 1) (_ignored : BitVec 2) (s : State) : Host.Outcome State Fault Refusal :=
  .next { s with keyInhibit := activeLow k }

/-- RPTDLY (R155); a running countdown is not touched (R24). -/
def execRptdly (d : BitVec 4) (s : State) : Host.Outcome State Fault Refusal :=
  .next { s with repeatDelayMs := delayMs d }

/-- RPTINT (R156); a running countdown is not touched (R25). -/
def execRptint (r : BitVec 4) (s : State) : Host.Outcome State Fault Refusal :=
  .next { s with repeatIntervalMs := intervalMs r }

/-- LEDSET (R157). -/
def execLedset (l : BitVec 7) (s : State) : Host.Outcome State Fault Refusal :=
  .next { s with ledState := l }

/-- CTRL_NOP, 0x00..0x3F (R158): discarded. -/
def execCtrlNop00 (_ignored : BitVec 6) (s : State) : Host.Outcome State Fault Refusal := .next s

/-- CTRL_NOP, 0x48..0x4F (R158): discarded. -/
def execCtrlNop48 (_ignored : BitVec 3) (s : State) : Host.Outcome State Fault Refusal := .next s

/-- CTRL_NOP, 0x50..0x53 (R158): discarded. -/
def execCtrlNop50 (_ignored : BitVec 2) (s : State) : Host.Outcome State Fault Refusal := .next s

/-- CTRL_BYTE (R150): the first command of the list whose pattern the byte matches, or the discard. -/
def execCtrlByte (b : Byte) (s : State) : Host.Outcome State Fault Refusal :=
  if b &&& 0xF8 = 0x40 then execMsctrl (b.extractLsb' 0 1) (b.extractLsb' 1 2) s
  else if b &&& 0xFC = 0x54 then execLedbrt (b.extractLsb' 0 2) s
  else if b &&& 0xF8 = 0x58 then execKeyinh (b.extractLsb' 0 1) (b.extractLsb' 1 2) s
  else if b &&& 0xF0 = 0x60 then execRptdly (b.extractLsb' 0 4) s
  else if b &&& 0xF0 = 0x70 then execRptint (b.extractLsb' 0 4) s
  else if b &&& 0x80 = 0x80 then execLedset (b.extractLsb' 0 7) s
  else .next s

end Sys2Proof.Machine
end

