-- ==== Sys2Proof/Machine/Gate.lean ====
section
/-! DEFINITION. The meanings of the four signal edges (45_transmit_gate.md) and of RESET (70_reset_and_hazards.md). -/

namespace Sys2Proof.Machine

/-- INHIBIT_FALL (R190). -/
def execInhibitFall (s : State) : Host.Outcome State Fault Refusal := .next { s with transmitInhibited := true }

/-- INHIBIT_RISE (R191): no backlog is flushed. -/
def execInhibitRise (s : State) : Host.Outcome State Fault Refusal := .next { s with transmitInhibited := false }

/-- MREQ_FALL (R193): one attempt, whatever `mouse_control_asserted` holds (R196). -/
def execMreqFall (s : State) : Host.Outcome State Fault Refusal := .next (mouseTransmitAttempt s)

/-- MREQ_RISE (R194): a no-operation, as the rule says. -/
def execMreqRise (s : State) : Host.Outcome State Fault Refusal := .next s

/-- RESET (R240, R241): every register at its reset value, nothing emitted. -/
def execReset (s : State) : Host.Outcome State Fault Refusal := .next (resetRegisters s)

end Sys2Proof.Machine
end

