-- ==== Sys2Proof/Machine/Keyboard.lean ====
section
/-! DEFINITION. The meanings of KBD_REPORT (40_keyboard_differencer.md) and of its output row KBD_TX (41_keycode_table_and_key_encoder.md). -/

namespace Sys2Proof.Machine

/-- KBD_REPORT (R90), with the installed tables. -/
def execKbdReport (mod k0 k1 k2 k3 k4 k5 : Byte) (s : State) : Host.Outcome State Fault Refusal :=
  .next (kbdReport Config.installed mod ⟨k0, k1, k2, k3, k4, k5⟩ s)

/-- KBD_TX (R68, R116): the gated emission of this key byte. No input transfer decodes to it (log 7). -/
def execKbdTx (brk : Bool) (scan : ScanCode) (s : State) : Host.Outcome State Fault Refusal :=
  .next (sendKeyByte scan (!brk) s)

end Sys2Proof.Machine
end

