-- ==== Sys2Proof/Machine/Mouse.lean ====
section
/-! DEFINITION. The meanings of MOUSE_REPORT and of its output row MOUSE_TX (42_mouse.md). -/

namespace Sys2Proof.Machine

/-- MOUSE_REPORT (R130). -/
def execMouseReport (buttons x y : Byte) (s : State) : Host.Outcome State Fault Refusal :=
  .next (mouseReport buttons x y s)

/-- MOUSE_TX (R69, R132, R134, R136): the gated emission of this packet. No input transfer decodes to it (log 7). -/
def execMouseTx (yon yop xon xop right left : Bool) (dx dy : Byte) (s : State) : Host.Outcome State Fault Refusal :=
  .next (sendMousePacket (packetByte0Layout yon yop xon xop right left) dx dy s)

end Sys2Proof.Machine
end

