-- ==== Sys2Proof/Machine/RepeatTimer.lean ====
section
/-! DEFINITION. The meaning of TICK (44_repeat_timer.md). -/

namespace Sys2Proof.Machine

/-- TICK (R174). -/
def execTick (e : Nat) (s : State) : Host.Outcome State Fault Refusal := .next (tick e s)

end Sys2Proof.Machine
end

