-- ==== Sys2Proof/Machine/Dispatch.lean ====
section
/-! DEFINITION. One arm per constructor of `Instr`. -/

namespace Sys2Proof.Machine

def exec (i : Instr) (s : State) : Host.Outcome State Fault Refusal :=
  match i with
  | .msctrl m x => Sys2Proof.Machine.execMsctrl m x s
  | .ledbrt v => Sys2Proof.Machine.execLedbrt v s
  | .keyinh k x => Sys2Proof.Machine.execKeyinh k x s
  | .rptdly d => Sys2Proof.Machine.execRptdly d s
  | .rptint r => Sys2Proof.Machine.execRptint r s
  | .ledset l => Sys2Proof.Machine.execLedset l s
  | .ctrlNop00 x => Sys2Proof.Machine.execCtrlNop00 x s
  | .ctrlNop48 x => Sys2Proof.Machine.execCtrlNop48 x s
  | .ctrlNop50 x => Sys2Proof.Machine.execCtrlNop50 x s
  | .reset => Sys2Proof.Machine.execReset s
  | .kbdReport m k0 k1 k2 k3 k4 k5 => Sys2Proof.Machine.execKbdReport m k0 k1 k2 k3 k4 k5 s
  | .mouseReport b x y => Sys2Proof.Machine.execMouseReport b x y s
  | .ctrlByte b => Sys2Proof.Machine.execCtrlByte b s
  | .tick e => Sys2Proof.Machine.execTick e s
  | .inhibitFall => Sys2Proof.Machine.execInhibitFall s
  | .inhibitRise => Sys2Proof.Machine.execInhibitRise s
  | .mreqFall => Sys2Proof.Machine.execMreqFall s
  | .mreqRise => Sys2Proof.Machine.execMreqRise s
  | .kbdTx brk scan => Sys2Proof.Machine.execKbdTx brk scan s
  | .mouseTx yon yop xon xop r l dx dy => Sys2Proof.Machine.execMouseTx yon yop xon xop r l dx dy s

end Sys2Proof.Machine
end

