-- ==== Sys2Proof/Machine/Step.lean ====
section
/-! DEFINITION. One step of the machine: the next input operation, performed to completion (00_scope.md R3, 20_memory.md R47). -/

namespace Sys2Proof.Machine

/-- Fetch, decode, perform. With no input left the block holds its state (R222); a transfer that is no input operation is refused. -/
def step (s : State) : Host.Outcome State Fault Refusal :=
  match s.fetch with
  | none => .next s
  | some (t, s') =>
    match decodeInput t.port t.payload with
    | .ok i => exec i s'
    | .error e => .refused (.malformedTransfer t.port e)

/-- The environment presents the transfer of the table word `w` next (log 19). A width that no input row has presents nothing. -/
def State.withFetchWord (s : State) (nbits w : Nat) : State :=
  match inputOfTableWord nbits w with
  | some t => { s with inputs := t :: s.inputs }
  | none => s

end Sys2Proof.Machine
end

