-- ==== Sys2Proof/Safety.lean ====
section
/-! DEFINITION. The terms that claims use: the invariant of 10_state.md R30, runs of operations, and what a run emitted. -/

namespace Sys2Proof.Machine

/-- The values `repeat_delay_ms` can hold (R24, R30 (b)). -/
def repeatDelays : List Nat := [200, 300, 400, 500, 600, 700, 800, 900, 1000, 1100, 1200, 1300, 1400, 1500, 1600, 1700]

/-- The values `repeat_interval_ms` can hold (R25, R30 (b)). -/
def repeatIntervals : List Nat := [30, 35, 50, 75, 110, 155, 210, 275, 350, 435, 530, 635, 750, 875, 1010, 1155]

/-- The invariant of every reachable state (R30 (a), (b), (c)). -/
abbrev State.Inv (s : State) : Prop :=
  s.heldScanCode.toNat ≤ 0x7F ∧ s.repeatDelayMs.toNat ∈ repeatDelays ∧ s.repeatIntervalMs.toNat ∈ repeatIntervals ∧
    (s.heldScanCode ≠ 0 → 1 ≤ s.countdownMs.toInt ∧ s.countdownMs.toInt ≤ 1700)

/-- The operations of a list one after another, each on the state the one before left; it stops at the first that does not
answer a next state. -/
def runInstrs : List Instr → State → Host.Outcome State Fault Refusal
  | [], s => .next s
  | i :: is, s =>
    match exec i s with
    | .next t => runInstrs is t
    | .fault r => .fault r
    | .refused r => .refused r

/-- The range of a `w`-bit signed accumulator (R15). -/
abbrev accFits (w : Nat) (v : Int) : Prop := -(2 : Int) ^ (w - 1) ≤ v ∧ v ≤ (2 : Int) ^ (w - 1) - 1

/-- The operations that attempt a mouse transmission (R137): a request edge, a control byte `01000--0` that finds
`mouse_control_asserted` false (R152), decoded or not, and the table's output row MOUSE_TX (log 7). -/
def attemptsMouseTransmit : Instr → State → Bool
  | .mreqFall, _ | .mouseTx .., _ => true
  | .msctrl m _, s => !s.mouseControlAsserted && m == 0
  | .ctrlByte b, s => !s.mouseControlAsserted && b &&& 0xF9 == 0x40
  | .ledbrt .., _ | .keyinh .., _ | .rptdly .., _ | .rptint .., _ | .ledset .., _ | .ctrlNop00 .., _ | .ctrlNop48 .., _
  | .ctrlNop50 .., _ | .reset, _ | .kbdReport .., _ | .mouseReport .., _ | .tick .., _ | .inhibitFall, _ | .inhibitRise, _
  | .mreqRise, _ | .kbdTx .., _ => false

/-- What the gate lets through of output events while `transmit_inhibited` is `inhibited` (R195). -/
def gated (inhibited : Bool) (es : List OutputEvent) : List OutputEvent := if inhibited then [] else es

/-- The output of key events that are sent: each byte followed by its activity trigger (R116). -/
def keyEventOutput (es : List KeyEvent) : List OutputEvent :=
  es.flatMap fun e => [.kbdTx (keyByte e.scan e.isMake), .act]

/-- "Within one snapshot, no usage code repeats" (R14, R95), for the codes that may generate an event. -/
abbrev KeySlots.NoRepeat (k : KeySlots) : Prop := (k.toList.filter reportable).Nodup

/-- The usage codes that the Differencer makes events of, in emission order: breaks, then makes (R92, R93). -/
def transitionCodes (cfg : Config) (old new : KeySlots) : List Byte :=
  (leaving old new ++ leaving new old).filter fun u => (keyLookup cfg u).isSome

/-- The X motion that the mouse packets of an output sequence carry, as the numbers their bytes 1 write. -/
def packetMotionX (es : List OutputEvent) : Int :=
  (es.map fun e => match e with | .mouseTx _ b1 _ => (b1.toNat : Int) | .kbdTx _ => 0 | .act => 0).sum

/-- The Y motion that the mouse packets of an output sequence carry, as the numbers their bytes 2 write. -/
def packetMotionY (es : List OutputEvent) : Int :=
  (es.map fun e => match e with | .mouseTx _ _ b2 => (b2.toNat : Int) | .kbdTx _ => 0 | .act => 0).sum

/-- The X motion that the mouse reports of an operation sequence deliver. -/
def reportedMotionX (is : List Instr) : Int := (is.map fun i => match i with | .mouseReport _ x _ => x.toInt | _ => 0).sum

/-- The Y motion that the mouse reports of an operation sequence deliver. -/
def reportedMotionY (is : List Instr) : Int := (is.map fun i => match i with | .mouseReport _ _ y => y.toInt | _ => 0).sum

end Sys2Proof.Machine
end

