-- ==== Sys2Proof/Certificates/Slice0/Obligations.lean ====
section
/-! DEFINITION. The statements for the provers. Each docstring names the rule it formalises; OBLIGATIONS.json quotes it. -/

open Sys2Proof Sys2Proof.Machine

/-! ### Decoding, encoding and the step -/

/-- Words written out from R60 to R69, at least one of each format (CTRL, a reserved control byte, KBD, MOUSE, TIME, NONE, KEYBYTE,
MOUSEPKT), decode on their ports; and one of each input format, a TICK out of range and a width that no row has, as table words.
The order of TICK's payload bytes and the port a table word's width stands for are the model's choice (log 3). -/
def Obligations.DecodesSampleWords : Prop :=
  decode (.input .ctrlByte) [0x47] = .ok (.msctrl 1 3) ∧
  decode (.input .ctrlByte) [0x56] = .ok (.ledbrt 2) ∧
  decode (.input .ctrlByte) [0x5E] = .ok (.keyinh 0 3) ∧
  decode (.input .ctrlByte) [0x63] = .ok (.rptdly 3) ∧
  decode (.input .ctrlByte) [0x72] = .ok (.rptint 2) ∧
  decode (.input .ctrlByte) [0xAA] = .ok (.ledset 0x2A) ∧
  decode (.input .ctrlByte) [0x53] = .ok (.ctrlNop50 3) ∧
  decode (.input .kbdReport) [0x02, 0x04, 0x05, 0x06, 0x07, 0x08, 0x09] = .ok (.kbdReport 2 4 5 6 7 8 9) ∧
  decode (.input .mouseReport) [0x01, 0x64, 0x9C] = .ok (.mouseReport 1 100 0x9C) ∧
  decode (.input .tick) [0x01, 0x02, 0x03, 0xF4] = .ok (.tick 0x010203F4) ∧
  decode (.input .reset) [] = .ok .reset ∧
  decode (.input .mreqFall) [] = .ok .mreqFall ∧
  decode (.output .kbdTx) [0x9E] = .ok (.kbdTx true 0x1E) ∧
  decode (.output .mouseTx) [0x91, 0xC8, 0x38] = .ok (.mouseTx true false false true false true 0xC8 0x38) ∧
  decodeTableWord 8 0x47 = some (.msctrl 1 3) ∧
  decodeTableWord 8 0x53 = some (.ctrlNop50 3) ∧
  decodeTableWord 56 0x02040506070809 = some (.kbdReport 2 4 5 6 7 8 9) ∧
  decodeTableWord 24 0x01649C = some (.mouseReport 1 100 0x9C) ∧
  decodeTableWord 32 0x010203F4 = some (.tick 0x010203F4) ∧
  decodeTableWord 32 0x80000000 = none ∧
  decodeTableWord 0 0 = some .reset ∧
  decodeTableWord 0 3 = some .mreqFall ∧
  decodeTableWord 16 0 = none

/-- R65, R66, R67: the byte ranges of the control opcode map and their operands; every byte is selected by exactly one row.
Row 1's mask is the spec's decision D17 (log 13). -/
def Obligations.ControlOpcodeMap : Prop :=
  ∀ b : Byte,
    decodeCtrl b =
      (if 0x40 ≤ b.toNat ∧ b.toNat ≤ 0x47 then .msctrl (b.extractLsb' 0 1) (b.extractLsb' 1 2)
       else if 0x54 ≤ b.toNat ∧ b.toNat ≤ 0x57 then .ledbrt (b.extractLsb' 0 2)
       else if 0x58 ≤ b.toNat ∧ b.toNat ≤ 0x5F then .keyinh (b.extractLsb' 0 1) (b.extractLsb' 1 2)
       else if 0x60 ≤ b.toNat ∧ b.toNat ≤ 0x6F then .rptdly (b.extractLsb' 0 4)
       else if 0x70 ≤ b.toNat ∧ b.toNat ≤ 0x7F then .rptint (b.extractLsb' 0 4)
       else if 0x80 ≤ b.toNat then .ledset (b.extractLsb' 0 7)
       else if b.toNat ≤ 0x3F then .ctrlNop00 (b.extractLsb' 0 6)
       else if 0x48 ≤ b.toNat ∧ b.toNat ≤ 0x4F then .ctrlNop48 (b.extractLsb' 0 3)
       else .ctrlNop50 (b.extractLsb' 0 2)) ∧
    (ctrlRows.filter fun r => r.selects b).length = 1

/-- Every well-formed row, with every operand at every value, decodes from its encoding; the undecoded CTRL_BYTE decodes to
the command its byte selects (R150). Payload layouts that the spec leaves open are the model's choice (log 3). -/
def Obligations.DecodeOfEncode : Prop :=
  ∀ i : Instr, i.wf →
    decode (encode i).1 (encode i).2 = .ok (match i with | .ctrlByte b => decodeCtrl b | j => j)

/-- The other direction: what bytes decode to encodes to exactly those bytes on that port, and is well formed. Payload layouts
that the spec leaves open are the model's choice (log 3). -/
def Obligations.EncodeOfDecode : Prop :=
  ∀ (p : Port) (bs : List Byte) (i : Instr), decode p bs = .ok i → encode i = (p, bs) ∧ i.wf

/-- R3, R47: a step performs the decoded operation on the state with the transfer consumed. That the input waits in the state
is the model's choice (log 1). -/
def Obligations.StepRunsDecodedInstruction : Prop :=
  ∀ (s : State) (t : Input) (rest : List Input) (i : Instr),
    s.inputs = t :: rest → decodeInput t.port t.payload = .ok i →
      step s = exec i { s with inputs := rest } ∧ i.wf = true ∧ i.isInput = true

/-- The model's choice (log 1, after R222): with no input left a step holds the state. -/
def Obligations.StepHoldsWithoutInput : Prop :=
  ∀ s : State, s.inputs = [] → step s = .next s

/-- The model's choice (log 9): a transfer is refused exactly where its payload is not of its port's length or it is a TICK of
`2^31` or more; nothing else is ever refused. -/
def Obligations.RefusesOnlyMalformedTransfers : Prop :=
  ∀ (s : State) (t : Input) (rest : List Input), s.inputs = t :: rest →
    ((∃ r, step s = .refused r) ↔
      t.payload.length ≠ t.port.payloadBytes ∨ (t.port = .tick ∧ 2 ^ 31 ≤ numberOfBytes t.payload)) ∧
    (∀ r, step s = .refused r → ∃ e, r = .malformedTransfer t.port e)

/-- R210: every operation with every operand completes. That none consumes or adds input is the model's choice (log 1); so is
that the table's output rows KBD_TX and MOUSE_TX are among the operations (log 7). -/
def Obligations.EveryOperationCompletes : Prop :=
  ∀ (i : Instr) (s : State), ∃ t, exec i s = .next t ∧ t.inputs = s.inputs

/-- R3: the machine's run over the encodings of a sequence of operations is those operations performed one after another, and
it never stops. That the input waits in the state is the model's choice (log 1). -/
def Obligations.RunPerformsInputSequence : Prop :=
  ∀ (is : List Instr) (s : State), (∀ i ∈ is, i.wf = true ∧ i.isInput = true) →
    ∃ t, runInstrs is { s with inputs := [] } = .next t ∧
      Sys2Proof.core.run is.length { s with inputs := is.filterMap encodeInput } = .next t

/-! ### Control commands -/

/-- R150: the dispatch, in the listed order, on masks and matches; a byte matches at most one of the six. That the decoder's
command and the undecoded byte do the same is the model's own, two constructors for one byte (log 8). -/
def Obligations.ControlByteDispatch : Prop :=
  ∀ (b : Byte) (s : State), ∃ t, exec (.ctrlByte b) s = .next t ∧ exec (decodeCtrl b) s = .next t ∧
    exec (.ctrlByte b) s =
      (if b &&& 0xF8 = 0x40 then exec (.msctrl (b.extractLsb' 0 1) (b.extractLsb' 1 2)) s
       else if b &&& 0xFC = 0x54 then exec (.ledbrt (b.extractLsb' 0 2)) s
       else if b &&& 0xF8 = 0x58 then exec (.keyinh (b.extractLsb' 0 1) (b.extractLsb' 1 2)) s
       else if b &&& 0xF0 = 0x60 then exec (.rptdly (b.extractLsb' 0 4)) s
       else if b &&& 0xF0 = 0x70 then exec (.rptint (b.extractLsb' 0 4)) s
       else if b &&& 0x80 = 0x80 then exec (.ledset (b.extractLsb' 0 7)) s
       else .next s) ∧
    ([b &&& 0xF8 == 0x40, b &&& 0xFC == 0x54, b &&& 0xF8 == 0x58, b &&& 0xF0 == 0x60, b &&& 0xF0 == 0x70,
      b &&& 0x80 == 0x80].count true ≤ 1)

/-- R152: the register is written first; a false-to-true transition makes one attempt in the same step. The mask is the spec's
decision D17 (log 13). -/
def Obligations.MouseControlCommand : Prop :=
  (∀ (m : BitVec 1) (x : BitVec 2) (s : State),
    exec (.msctrl m x) s =
      .next (if s.mouseControlAsserted = false ∧ m = 0 then mouseTransmitAttempt { s with mouseControlAsserted := true }
             else { s with mouseControlAsserted := decide (m = 0) })) ∧
  ∀ (b : Byte) (s : State), b &&& 0xF8 = 0x40 →
    exec (.ctrlByte b) s =
      .next (if s.mouseControlAsserted = false ∧ b.getLsbD 0 = false then
               mouseTransmitAttempt { s with mouseControlAsserted := true }
             else { s with mouseControlAsserted := !b.getLsbD 0 })

/-- R153: `led_brightness` becomes the low two bits, for every byte of LEDBRT's pattern, and nothing else changes. -/
def Obligations.LedBrightnessCommand : Prop :=
  (∀ (v : BitVec 2) (s : State), exec (.ledbrt v) s = .next { s with ledBrightness := v }) ∧
  ∀ (b : Byte) (s : State), b &&& 0xFC = 0x54 →
    exec (.ctrlByte b) s = .next { s with ledBrightness := b.extractLsb' 0 2 }

/-- R154: a 0 in bit 0 sets the flag, a 1 clears it; and the flag has no effect on any other rule: with any other value in it,
every operation does the same to everything else. -/
def Obligations.KeyInhibitCommand : Prop :=
  (∀ (k : BitVec 1) (x : BitVec 2) (s : State), exec (.keyinh k x) s = .next { s with keyInhibit := decide (k = 0) }) ∧
  (∀ (b : Byte) (s : State), b &&& 0xF8 = 0x58 →
    exec (.ctrlByte b) s = .next { s with keyInhibit := !b.getLsbD 0 }) ∧
  ∀ (i : Instr) (s t : State) (v : Bool), exec i s = .next t →
    ∃ v', exec i { s with keyInhibit := v } = .next { t with keyInhibit := v' }

/-- R155: the sixteen delays; a running countdown is not touched, the next arming uses the new value. -/
def Obligations.RepeatDelayCommand : Prop :=
  (∀ (d : BitVec 4) (s : State), ∃ t, exec (.rptdly d) s = .next t ∧ t = { s with repeatDelayMs := t.repeatDelayMs } ∧
    t.repeatDelayMs.toNat = 200 + d.toNat * 100 ∧ repeatDelays[d.toNat]? = some t.repeatDelayMs.toNat ∧
    ∀ scan : ScanCode, (repeatTrack ⟨scan, true, false⟩ t).countdownMs.toInt = 200 + d.toNat * 100) ∧
  ∀ (b : Byte) (s : State), b &&& 0xF0 = 0x60 → exec (.ctrlByte b) s = exec (.rptdly (b.extractLsb' 0 4)) s

/-- R156: the sixteen intervals (the nibble squared); a running countdown is not touched, the next expiry uses the new value. For
a tick or a countdown that no run has, that the tick expires is decided on the integer difference, the model's choice (log 20). -/
def Obligations.RepeatIntervalCommand : Prop :=
  (∀ (r : BitVec 4) (s : State), ∃ t, exec (.rptint r) s = .next t ∧ t = { s with repeatIntervalMs := t.repeatIntervalMs } ∧
    t.repeatIntervalMs.toNat = 30 + r.toNat * r.toNat * 5 ∧ repeatIntervals[r.toNat]? = some t.repeatIntervalMs.toNat ∧
    ∀ e : Nat, s.heldScanCode ≠ 0 → s.countdownMs.toInt ≤ e →
      ∃ u, exec (.tick e) t = .next u ∧ u.countdownMs.toInt = 30 + r.toNat * r.toNat * 5) ∧
  ∀ (b : Byte) (s : State), b &&& 0xF0 = 0x70 → exec (.ctrlByte b) s = exec (.rptint (b.extractLsb' 0 4)) s

/-- R157: `led_state` becomes the low seven bits as received, for every byte with bit 7 set, and nothing else changes. -/
def Obligations.LedStateCommand : Prop :=
  (∀ (l : BitVec 7) (s : State), exec (.ledset l) s = .next { s with ledState := l }) ∧
  ∀ (b : Byte) (s : State), b &&& 0x80 = 0x80 → exec (.ctrlByte b) s = .next { s with ledState := b.extractLsb' 0 7 }

/-- R158: a byte of the three reserved ranges is discarded. -/
def Obligations.UnmatchedBytesAreDiscarded : Prop :=
  (∀ (x : BitVec 6) (s : State), exec (.ctrlNop00 x) s = .next s) ∧
  (∀ (x : BitVec 3) (s : State), exec (.ctrlNop48 x) s = .next s) ∧
  (∀ (x : BitVec 2) (s : State), exec (.ctrlNop50 x) s = .next s) ∧
  ∀ (b : Byte) (s : State),
    (b.toNat ≤ 0x3F ∨ (0x48 ≤ b.toNat ∧ b.toNat ≤ 0x4F) ∨ (0x50 ≤ b.toNat ∧ b.toNat ≤ 0x53)) →
      exec (.ctrlByte b) s = .next s

/-- R159: feeding the same byte a second time leaves the same state and emits nothing. The spec derives this itself. -/
def Obligations.ControlBytesAreIdempotent : Prop :=
  ∀ (b : Byte) (s : State), ∃ t, exec (.ctrlByte b) s = .next t ∧ exec (.ctrlByte b) t = .next t

/-! ### Keyboard -/

/-- R115: the value of a key byte; make bytes are 0x00..0x7F, break bytes 0x80..0xFF. -/
def Obligations.KeyByteValue : Prop :=
  ∀ (scan : ScanCode) (isMake : Bool),
    (keyByte scan isMake).toNat = (if isMake then 0 else 0x80) + scan.toNat ∧
    keyByte scan isMake = (if isMake then 0x00 else 0x80) ||| scan.zeroExtend 8 ∧
    ((keyByte scan isMake).toNat ≤ 0x7F ↔ isMake = true)

/-- R116, as the meaning of the table's output row KBD_TX (the model's choice, log 7): the byte, then its activity trigger, or
nothing at all while inhibited. -/
def Obligations.KeyByteEmission : Prop :=
  ∀ (brk : Bool) (scan : ScanCode) (s : State),
    exec (.kbdTx brk scan) s =
      .next { s with outputs := s.outputs ++
        if s.transmitInhibited then [] else [.kbdTx (BitVec.ofNat 8 ((if brk then 128 else 0) + scan.toNat)), .act] }

/-- R111: inside the table's range the lookup answers the entry, outside it none. -/
def Obligations.KeyLookupIsDense : Prop :=
  ∀ (cfg : Config) (u : Byte),
    if 4 ≤ u.toNat ∧ u.toNat < 4 + cfg.keyLen then
      ∃ scan, cfg.keyTable[u.toNat - 4]? = some scan ∧ keyLookup cfg u = some scan
    else keyLookup cfg u = none

/-- R94, with the frame of KBD_REPORT: the whole new report is stored, inhibited or not; beside the snapshot only the Repeat
Timer and the output can change. -/
def Obligations.KeyboardReportStoresSnapshot : Prop :=
  ∀ (mod k0 k1 k2 k3 k4 k5 : Byte) (s : State), ∃ t, exec (.kbdReport mod k0 k1 k2 k3 k4 k5) s = .next t ∧
    t.prevMod = mod ∧ t.prevKeys = ⟨k0, k1, k2, k3, k4, k5⟩ ∧ s.outputs <+: t.outputs ∧
    t = { s with prevMod := t.prevMod, prevKeys := t.prevKeys, heldScanCode := t.heldScanCode,
                 countdownMs := t.countdownMs, outputs := t.outputs }

/-- R91, R92, R93 (with R116's gate): the bytes one report emits, in order: changed modifiers from bit 0 to bit 7, breaks in
the slot order of the old snapshot, makes in the slot order of the new one. A code repeated in a snapshot counts once per
slot: the spec's decision D6 (log 17). -/
def Obligations.KeyboardReportOutput : Prop :=
  ∀ (mod k0 k1 k2 k3 k4 k5 : Byte) (s : State), ∃ t, exec (.kbdReport mod k0 k1 k2 k3 k4 k5) s = .next t ∧
    let cfg := Config.installed
    let old := s.prevKeys.toList
    let new := [k0, k1, k2, k3, k4, k5]
    let send := fun (scan : ScanCode) (isMake : Bool) => [OutputEvent.kbdTx (keyByte scan isMake), OutputEvent.act]
    let sendCode := fun (u : Byte) (isMake : Bool) =>
      match keyLookup cfg u with
      | some scan => send scan isMake
      | none => []
    t.outputs = s.outputs ++
      if s.transmitInhibited then []
      else
        ((List.finRange 8).flatMap fun i : Fin 8 =>
            if s.prevMod.getLsbD i ≠ mod.getLsbD i then send (cfg.modScan i) (mod.getLsbD i) else []) ++
        (old.flatMap fun u => if 3 < u.toNat ∧ u ∉ new then sendCode u false else []) ++
        (new.flatMap fun u => if 3 < u.toNat ∧ u ∉ old then sendCode u true else [])

/-- R100, R172, R175, R176: a report that makes a mapped key leaves the timer holding the last such key in slot order with the
delay loaded; one that makes none leaves it Idle if some break, of a modifier or of a key, has the held scan code, and as it
was if none has. That modifier breaks clear and modifier makes do not arm is the spec's decision D10 (log 16). -/
def Obligations.KeyboardReportMovesTimer : Prop :=
  ∀ (mod k0 k1 k2 k3 k4 k5 : Byte) (s : State), ∃ t, exec (.kbdReport mod k0 k1 k2 k3 k4 k5) s = .next t ∧
    let cfg := Config.installed
    let old := s.prevKeys.toList
    let new := [k0, k1, k2, k3, k4, k5]
    let made := new.filterMap fun u => if 3 < u.toNat ∧ u ∉ old then keyLookup cfg u else none
    match made.getLast? with
    | some scan => t.heldScanCode = scan.zeroExtend 8 ∧ t.countdownMs = s.repeatDelayMs.zeroExtend 32
    | none =>
      t.countdownMs = s.countdownMs ∧
      (if (∃ i : Fin 8, s.prevMod.getLsbD i = true ∧ mod.getLsbD i = false ∧
              s.heldScanCode = (cfg.modScan i).zeroExtend 8) ∨
          (∃ u ∈ old, 3 < u.toNat ∧ u ∉ new ∧ ∃ scan, keyLookup cfg u = some scan ∧
              s.heldScanCode = scan.zeroExtend 8)
       then t.heldScanCode = 0 else t.heldScanCode = s.heldScanCode)

/-- R97 (b): a report presented again emits nothing and changes nothing, the countdown included. -/
def Obligations.UnchangedReportIsSilent : Prop :=
  ∀ (mod k0 k1 k2 k3 k4 k5 : Byte) (s : State), ∃ t, exec (.kbdReport mod k0 k1 k2 k3 k4 k5) s = .next t ∧
    exec (.kbdReport mod k0 k1 k2 k3 k4 k5) t = .next t

/-- R97 (a): between snapshots without repeated codes, the Differencer makes exactly one event of each mapped code of the
symmetric difference and none of any other code; and the machine sends one byte per changed modifier bit and per such code. -/
def Obligations.DifferencerIsMinimal : Prop :=
  (∀ (cfg : Config) (old new : KeySlots), old.NoRepeat → new.NoRepeat → ∀ u : Byte,
    (transitionCodes cfg old new).count u =
      if 3 < u.toNat ∧ (keyLookup cfg u).isSome ∧ ¬(u ∈ old.toList ↔ u ∈ new.toList) then 1 else 0) ∧
  ∀ (mod k0 k1 k2 k3 k4 k5 : Byte) (s : State), s.transmitInhibited = false →
    ∃ t, exec (.kbdReport mod k0 k1 k2 k3 k4 k5) s = .next t ∧
      t.outputs.length = s.outputs.length +
        2 * (((List.range 8).countP fun i => s.prevMod.getLsbD i != mod.getLsbD i) +
          (transitionCodes Config.installed s.prevKeys ⟨k0, k1, k2, k3, k4, k5⟩).length)

/-- R112: codes with no entry that enter or leave leave no trace beyond the snapshot, for every table. -/
def Obligations.UnmappedCodesLeaveNoTrace : Prop :=
  ∀ (cfg : Config) (keys : KeySlots) (s : State),
    (∀ u ∈ s.prevKeys.toList, u ∉ keys.toList → keyLookup cfg u = none) →
    (∀ u ∈ keys.toList, u ∉ s.prevKeys.toList → keyLookup cfg u = none) →
    kbdReport cfg s.prevMod keys s = { s with prevKeys := keys }

/-- R99: the first report after RESET emits no break byte; an all-zero one emits nothing and leaves the reset state. The reset
snapshot is the spec's decision D19 (log 12). -/
def Obligations.FirstReportBreaksNothing : Prop :=
  ∀ s : State, ∃ r, exec .reset s = .next r ∧ exec (.kbdReport 0 0 0 0 0 0 0) r = .next r ∧
    ∀ mod k0 k1 k2 k3 k4 k5 : Byte, ∃ t es, exec (.kbdReport mod k0 k1 k2 k3 k4 k5) r = .next t ∧
      t.outputs = r.outputs ++ es ∧ ∀ b, OutputEvent.kbdTx b ∈ es → b.getLsbD 7 = false

/-! ### Mouse -/

/-- R130: exact sums, latches replaced, nothing emitted, not gated. -/
def Obligations.MouseReportAccumulates : Prop :=
  ∀ (buttons x y : Byte) (s : State),
    exec (.mouseReport buttons x y) s =
      .next { s with accDx := s.accDx + x.toInt, accDy := s.accDy + y.toInt,
                     btnLeft := buttons.getLsbD 0, btnRight := buttons.getLsbD 1 }

/-- R131: any number of reports sum exactly, in any order; the latches keep the last report's bits. -/
def Obligations.MouseReportsSumExactly : Prop :=
  ∀ (rs : List (Byte × Byte × Byte)) (s : State),
    runInstrs (rs.map fun r => .mouseReport r.1 r.2.1 r.2.2) s =
      .next { s with
        accDx := s.accDx + (rs.map fun r => r.2.1.toInt).sum
        accDy := s.accDy + (rs.map fun r => r.2.2.toInt).sum
        btnLeft := ((rs.map fun r => r.1.getLsbD 0).getLast?).getD s.btnLeft
        btnRight := ((rs.map fun r => r.1.getLsbD 1).getLast?).getD s.btnRight }

/-- R15: accumulators of a finite width agree with the block for as long as the sums are in their range. The unbounded
accumulator is the spec's decision D8 (log 6). -/
def Obligations.FiniteAccumulatorAgrees : Prop :=
  ∀ (w : Nat) (accX accY : BitVec w) (b x y : Byte) (s : State), 0 < w → accX.toInt = s.accDx → accY.toInt = s.accDy →
    accFits w (s.accDx + x.toInt) → accFits w (s.accDy + y.toInt) →
    ∃ t, exec (.mouseReport b x y) s = .next t ∧
      (accX + x.signExtend w).toInt = t.accDx ∧ (accY + y.signExtend w).toInt = t.accDy

/-- R133: byte 0 of the packet, bit by bit; the comparisons are on the full accumulated integers. -/
def Obligations.PacketByteZeroBits : Prop :=
  ∀ (left right : Bool) (dx dy : Int),
    let b0 := mouseByte0 left right dx dy
    b0.getLsbD 0 = left ∧ b0.getLsbD 1 = right ∧ b0.getLsbD 2 = false ∧ b0.getLsbD 3 = false ∧
    b0.getLsbD 4 = decide (dx > 127) ∧ b0.getLsbD 5 = decide (dx < -128) ∧
    b0.getLsbD 6 = decide (dy > 127) ∧ b0.getLsbD 7 = decide (dy < -128)

/-- R135: the data bytes wrap modulo 256 and do not saturate; outside -128..127, and only there, a flag of the axis is set. -/
def Obligations.PacketDataBytesWrap : Prop :=
  ∀ s : State, s.transmitInhibited = false →
    ∃ t b0 b1 b2 rest, exec .mreqFall s = .next t ∧ t.outputs = s.outputs ++ OutputEvent.mouseTx b0 b1 b2 :: rest ∧
      (b1.toNat : Int) = s.accDx % 256 ∧ b1.toInt = (s.accDx + 128) % 256 - 128 ∧
      (b2.toNat : Int) = s.accDy % 256 ∧ b2.toInt = (s.accDy + 128) % 256 - 128 ∧
      ((-128 ≤ s.accDx ∧ s.accDx ≤ 127) ↔ b1.toInt = s.accDx) ∧
      ((-128 ≤ s.accDy ∧ s.accDy ≤ 127) ↔ b2.toInt = s.accDy) ∧
      ((b0.getLsbD 4 || b0.getLsbD 5) = true ↔ b1.toInt ≠ s.accDx) ∧
      ((b0.getLsbD 6 || b0.getLsbD 7) = true ↔ b2.toInt ≠ s.accDy)

/-- R193, R132: one attempt per falling edge; two edges are two attempts, the second with zero motion and the same buttons;
while inhibited the edge does nothing. The kept accumulator, the ungated edge and the empty packet are the spec's decisions
D14, D15 and D18 (log 14). -/
def Obligations.MouseRequestTransmits : Prop :=
  ∀ s : State,
    (s.transmitInhibited = true → exec .mreqFall s = .next s) ∧
    (s.transmitInhibited = false →
      let b0 := mouseByte0 s.btnLeft s.btnRight s.accDx s.accDy
      let b1 := BitVec.ofInt 8 s.accDx
      let b2 := BitVec.ofInt 8 s.accDy
      let c0 := mouseByte0 s.btnLeft s.btnRight 0 0
      let t := { s with accDx := 0, accDy := 0,
                        outputs := s.outputs ++ OutputEvent.mouseTx b0 b1 b2 ::
                          if b0 = 0 ∧ b1 = 0 ∧ b2 = 0 then [] else [.act] }
      exec .mreqFall s = .next t ∧
      exec .mreqFall t = .next { t with
        outputs := t.outputs ++ OutputEvent.mouseTx c0 0 0 ::
          if s.btnLeft = false ∧ s.btnRight = false then [] else [.act] })

/-- R69: a packet that the block computes is a well-formed one, and the legacy host reads its own flags and bytes from it.
That no axis has both flags is the spec's own inference. -/
def Obligations.PacketReadsBack : Prop :=
  ∀ (left right : Bool) (dx dy : Int) (b1 b2 : Byte),
    decodeOutput .mouseTx [mouseByte0 left right dx dy, b1, b2] =
      .ok (.mouseTx (decide (dy < -128)) (decide (dy > 127)) (decide (dx < -128)) (decide (dx > 127)) right left b1 b2) ∧
    (Instr.mouseTx (decide (dy < -128)) (decide (dy > 127)) (decide (dx < -128)) (decide (dx > 127)) right left b1 b2).wf = true

/-- R132, R134, R136, as the meaning of the table's output row MOUSE_TX (the model's choice, log 7). -/
def Obligations.MousePacketEmission : Prop :=
  ∀ (yon yop xon xop right left : Bool) (dx dy : Byte) (s : State), ∃ b0 : Byte,
    encode (.mouseTx yon yop xon xop right left dx dy) = (.output .mouseTx, [b0, dx, dy]) ∧
    exec (.mouseTx yon yop xon xop right left dx dy) s =
      .next (if s.transmitInhibited then s
             else { s with accDx := 0, accDy := 0,
                           outputs := s.outputs ++ OutputEvent.mouseTx b0 dx dy ::
                             if b0 = 0 ∧ dx = 0 ∧ dy = 0 then [] else [.act] })

/-- R137: a mouse packet is emitted on a request edge and on a false-to-true transition of `mouse_control_asserted`, while not
inhibited, and on no other occasion. -/
def Obligations.MousePacketOccasions : Prop :=
  ∀ (i : Instr) (s t : State), i.isInput = true → exec i s = .next t →
    ((∃ b0 b1 b2, OutputEvent.mouseTx b0 b1 b2 ∈ t.outputs.drop s.outputs.length) ↔
      s.transmitInhibited = false ∧
        (i = .mreqFall ∨ (s.mouseControlAsserted = false ∧ t.mouseControlAsserted = true)))

/-- R49, R131: over any sequence of operations other than RESET (and the table's output rows), motion is neither sent twice
nor lost: what the packets carry and what is still accumulated add up, modulo 256, to what the reports delivered. That an
inhibited attempt keeps the motion is the spec's decision D14 (log 14). -/
def Obligations.MotionIsConserved : Prop :=
  ∀ (is : List Instr) (s t : State), (∀ i ∈ is, i.isInput = true ∧ i ≠ .reset) → runInstrs is s = .next t →
    ∃ es, t.outputs = s.outputs ++ es ∧
      (packetMotionX es + t.accDx) % 256 = (s.accDx + reportedMotionX is) % 256 ∧
      (packetMotionY es + t.accDy) % 256 = (s.accDy + reportedMotionY is) % 256

/-! ### Repeat Timer -/

/-- R171: a non-modifier make arms with the delay as it stands, a break of the held scan code clears, and nothing
else happens. -/
def Obligations.RepeatTrackTransitions : Prop :=
  ∀ (scan : ScanCode) (isMake isModifier : Bool) (s : State),
    repeatTrack ⟨scan, isMake, isModifier⟩ s =
      (if isMake = true ∧ isModifier = false then
         { s with heldScanCode := scan.zeroExtend 8, countdownMs := s.repeatDelayMs.zeroExtend 32 }
       else if isMake = false ∧ s.heldScanCode = scan.zeroExtend 8 then { s with heldScanCode := 0 }
       else s)

/-- R174: Idle, nothing; Armed, the subtraction, and on reaching 0 or less one synthetic make through the gate and the
interval loaded. The difference is one of integers: for operands or countdowns that no run has, that is the model's choice
(log 20). -/
def Obligations.TickCountsDown : Prop :=
  ∀ (e : Nat) (s : State), ∃ t, exec (.tick e) s = .next t ∧
    (s.heldScanCode = 0 → t = s) ∧
    (s.heldScanCode ≠ 0 → 0 < s.countdownMs.toInt - e →
      t = { s with countdownMs := t.countdownMs } ∧ t.countdownMs.toInt = s.countdownMs.toInt - e) ∧
    (s.heldScanCode ≠ 0 → s.countdownMs.toInt - e ≤ 0 →
      t = { s with countdownMs := s.repeatIntervalMs.zeroExtend 32,
                   outputs := s.outputs ++
                     if s.transmitInhibited then []
                     else [.kbdTx (keyByte (s.heldScanCode.extractLsb' 0 7) true), .act] })

/-- R178: from an Armed state, ticks that sum to less than the countdown only count down; the tick that reaches it sends
exactly one synthetic make of the held code and loads the interval. The spec derives this from R174; for a last
tick of `2^31` or more the integer difference is the model's choice (log 20). -/
def Obligations.SyntheticMakeAtExpiry : Prop :=
  ∀ (es : List Nat) (e : Nat) (s : State), s.heldScanCode ≠ 0 → (es.sum : Int) < s.countdownMs.toInt →
    (∃ t, runInstrs (es.map .tick) s = .next t ∧ t = { s with countdownMs := t.countdownMs } ∧
      t.countdownMs.toInt = s.countdownMs.toInt - es.sum) ∧
    (s.countdownMs.toInt ≤ (es.sum + e : Nat) →
      runInstrs ((es ++ [e]).map .tick) s = .next { s with
        countdownMs := s.repeatIntervalMs.zeroExtend 32
        outputs := s.outputs ++
          if s.transmitInhibited then [] else [.kbdTx (keyByte (s.heldScanCode.extractLsb' 0 7) true), .act] })

/-- R178, with ticks on the expiry instants (TICK(1) throughout): from a loaded interval, `n` intervals of unit ticks send
exactly `n` synthetic makes and end with the interval loaded again. The spec derives this from R174. -/
def Obligations.SyntheticMakeEveryInterval : Prop :=
  ∀ (n : Nat) (s : State), s.heldScanCode ≠ 0 → s.repeatIntervalMs ≠ 0 →
    s.countdownMs = s.repeatIntervalMs.zeroExtend 32 → s.transmitInhibited = false →
    runInstrs (List.replicate (n * s.repeatIntervalMs.toNat) (.tick 1)) s =
      .next { s with outputs := s.outputs ++
        (List.replicate n [OutputEvent.kbdTx (keyByte (s.heldScanCode.extractLsb' 0 7) true), .act]).flatten }

/-- R170: only a keyboard report, a tick and RESET move the Repeat Timer; RPTDLY, RPTINT and the inhibit line do not. That a
running countdown is not touched is the spec's decision D28 (log 16). -/
def Obligations.TimerMovesOnlyOnItsEvents : Prop :=
  ∀ (i : Instr) (s t : State), exec i s = .next t →
    (t.heldScanCode = s.heldScanCode ∧ t.countdownMs = s.countdownMs) ∨ (∃ e, i = .tick e) ∨ i = .reset ∨
      ∃ mod k0 k1 k2 k3 k4 k5, i = .kbdReport mod k0 k1 k2 k3 k4 k5

/-- R117: a key byte is emitted only by a keyboard report or a tick. -/
def Obligations.KeyByteOccasions : Prop :=
  ∀ (i : Instr) (s t : State), i.isInput = true → exec i s = .next t →
    (∃ b, OutputEvent.kbdTx b ∈ t.outputs.drop s.outputs.length) →
      (∃ e, i = .tick e) ∨ ∃ mod k0 k1 k2 k3 k4 k5, i = .kbdReport mod k0 k1 k2 k3 k4 k5

/-! ### Transmit Gate -/

/-- R190: a falling edge of the inhibit line sets `transmit_inhibited` and changes nothing else. -/
def Obligations.InhibitFallSetsGate : Prop :=
  ∀ s : State, exec .inhibitFall s = .next { s with transmitInhibited := true }

/-- R191: a rising edge of the inhibit line clears `transmit_inhibited`; nothing is sent and nothing else changes. -/
def Obligations.InhibitRiseClearsGate : Prop :=
  ∀ s : State, exec .inhibitRise s = .next { s with transmitInhibited := false }

/-- R194: a rising edge of the mouse-request line changes nothing and emits nothing (the spec's decision D25, log 18). -/
def Obligations.MouseRequestRiseDoesNothing : Prop :=
  ∀ s : State, exec .mreqRise s = .next s

/-- R195: while inhibited no operation emits an output event of any kind, over one step and over any run that neither raises
the line nor resets. -/
def Obligations.NothingEmittedWhileInhibited : Prop :=
  (∀ (i : Instr) (s t : State), s.transmitInhibited = true → exec i s = .next t → t.outputs = s.outputs) ∧
  ∀ (is : List Instr) (s t : State), s.transmitInhibited = true → (∀ i ∈ is, i ≠ .inhibitRise ∧ i ≠ .reset) →
    runInstrs is s = .next t → t.outputs = s.outputs ∧ t.transmitInhibited = true

/-- R195, R132: what still happens while inhibited. Every operation leaves the same state whether the line inhibits or not, but for
the output, the gate flag and, where a mouse transmission is attempted, the accumulator, which the inhibited attempt keeps. Such an
attempt is made by MREQ_FALL, by an asserting MSCTRL that finds the register false, and by the table's output row MOUSE_TX (log 7).
Tracking while inhibited and the kept accumulator are the spec's decisions D12 and D14 (logs 16 and 14). -/
def Obligations.InhibitDropsOnlyOutput : Prop :=
  ∀ (i : Instr) (s t u : State),
    exec i { s with transmitInhibited := true } = .next t → exec i { s with transmitInhibited := false } = .next u →
      { t with outputs := [], transmitInhibited := false, accDx := 0, accDy := 0 } =
        { u with outputs := [], transmitInhibited := false, accDx := 0, accDy := 0 } ∧
      (if attemptsMouseTransmit i s then t.accDx = s.accDx ∧ t.accDy = s.accDy
       else t.accDx = u.accDx ∧ t.accDy = u.accDy)

/-- R197: an edge of the mouse-request line never changes the gate flag; an edge of the inhibit line never sends a packet. -/
def Obligations.SignalLinesAreIndependent : Prop :=
  ∀ s : State,
    (∃ t, exec .mreqFall s = .next t ∧ t.transmitInhibited = s.transmitInhibited) ∧
    (∃ t, exec .mreqRise s = .next t ∧ t.transmitInhibited = s.transmitInhibited) ∧
    (∃ t, exec .inhibitFall s = .next t ∧ t.outputs = s.outputs) ∧
    (∃ t, exec .inhibitRise s = .next t ∧ t.outputs = s.outputs)

/-- R196: `mouse_control_asserted` and `key_inhibit` gate nothing: outside the commands that write control registers and
RESET, every operation does the same whatever the two hold. The spec's decisions D15 and D16 (logs 14 and 15). -/
def Obligations.ControlFlagsGateNothing : Prop :=
  ∀ (i : Instr) (s t : State) (a k : Bool), (∀ m x, i ≠ .msctrl m x) → (∀ m x, i ≠ .keyinh m x) → (∀ b, i ≠ .ctrlByte b) →
    i ≠ .reset → exec i s = .next t →
      exec i { s with mouseControlAsserted := a, keyInhibit := k } =
        .next { t with mouseControlAsserted := a, keyInhibit := k }

/-- R220: by port, who can write what. Only control bytes write ControlConfig, only keyboard reports the snapshot, only mouse
reports the latches, only the inhibit line the gate flag; RESET writes all of them. The spec's decision D24. -/
def Obligations.PortsOwnTheirRegisters : Prop :=
  ∀ (i : Instr) (s t : State), exec i s = .next t → i ≠ .reset →
    ((encode i).1 ≠ .input .ctrlByte →
      t.mouseControlAsserted = s.mouseControlAsserted ∧ t.ledBrightness = s.ledBrightness ∧ t.keyInhibit = s.keyInhibit ∧
      t.repeatDelayMs = s.repeatDelayMs ∧ t.repeatIntervalMs = s.repeatIntervalMs ∧ t.ledState = s.ledState) ∧
    ((encode i).1 ≠ .input .kbdReport → t.prevMod = s.prevMod ∧ t.prevKeys = s.prevKeys) ∧
    ((encode i).1 ≠ .input .mouseReport → t.btnLeft = s.btnLeft ∧ t.btnRight = s.btnRight) ∧
    ((encode i).1 ≠ .input .inhibitFall → (encode i).1 ≠ .input .inhibitRise → t.transmitInhibited = s.transmitInhibited)

/-- R3, R28: the output is only appended to, and no operation reads it: what is emitted does not depend on what was. -/
def Obligations.OutputIsNeverRead : Prop :=
  ∀ (i : Instr) (s t : State), exec i s = .next t →
    ∃ es, t.outputs = s.outputs ++ es ∧
      ∀ before : List OutputEvent, exec i { s with outputs := before } = .next { t with outputs := before ++ es }

/-- R29: the level outputs are moved by LEDSET, LEDBRT, KEYINH, MSCTRL and RESET only, a control byte not yet decoded moving them
only where it matches one of those four commands (log 8), and they show the new value at once. The level outputs are the spec's
decision D30 (log 15). -/
def Obligations.LevelOutputsFollowRegisters : Prop :=
  (∀ (i : Instr) (s t : State), exec i s = .next t →
    t.levelOutputs = s.levelOutputs ∨ i = .reset ∨
      (∃ l, i = .ledset l) ∨ (∃ v, i = .ledbrt v) ∨ (∃ k x, i = .keyinh k x) ∨ (∃ m x, i = .msctrl m x) ∨
      ∃ b, i = .ctrlByte b ∧ (b &&& 0x80 = 0x80 ∨ b &&& 0xFC = 0x54 ∨ b &&& 0xF8 = 0x58 ∨ b &&& 0xF8 = 0x40)) ∧
  ∀ s : State,
    (∀ l, ∃ t, exec (.ledset l) s = .next t ∧ t.levelOutputs = { s.levelOutputs with ledState := l }) ∧
    (∀ v, ∃ t, exec (.ledbrt v) s = .next t ∧ t.levelOutputs = { s.levelOutputs with ledBrightness := v }) ∧
    (∀ k x, ∃ t, exec (.keyinh k x) s = .next t ∧ t.levelOutputs = { s.levelOutputs with keyInhibit := decide (k = 0) }) ∧
    (∀ m x, ∃ t, exec (.msctrl m x) s = .next t ∧
      t.levelOutputs = { s.levelOutputs with mouseControlAsserted := decide (m = 0) }) ∧
    (∀ d, ∃ t, exec (.rptdly d) s = .next t ∧ t.levelOutputs = s.levelOutputs) ∧
    (∀ r, ∃ t, exec (.rptint r) s = .next t ∧ t.levelOutputs = s.levelOutputs)

/-! ### Reset and invariants -/

/-- R240, R241: RESET writes every register with its reset value and emits nothing. Nine of the values are the spec's decision
D19 (log 12). -/
def Obligations.ResetWritesEveryRegister : Prop :=
  ∀ s : State, exec .reset s = .next
    { prevMod := 0x00, prevKeys := ⟨0x00, 0x00, 0x00, 0x00, 0x00, 0x00⟩, accDx := 0, accDy := 0,
      btnLeft := false, btnRight := false, heldScanCode := 0x00, countdownMs := 0, mouseControlAsserted := false,
      ledBrightness := 0, keyInhibit := false, repeatDelayMs := 500, repeatIntervalMs := 110, ledState := 0,
      transmitInhibited := false, inputs := s.inputs, outputs := s.outputs }

/-- R30: the reset state meets the invariant. -/
def Obligations.ResetMeetsInvariant : Prop := State.reset.Inv

/-- R30 (a), (b), (c): every step keeps the invariant, from any state that meets it and with any input waiting. The spec
derives R30 from its other rules. -/
def Obligations.StepKeepsInvariant : Prop :=
  ∀ s t : State, s.Inv → step s = .next t → t.Inv

/-- R30: the invariant holds in every state reachable from reset, whatever input the environment presents. The spec derives
R30 from its other rules. -/
def Obligations.EveryRunKeepsInvariant : Prop :=
  ∀ (ins : List Input) (n : Nat) (t : State),
    Sys2Proof.core.run n { State.reset with inputs := ins } = .next t → t.Inv

/-- R30 (d): in every state that meets the invariant, the subtraction of a legal TICK stays in the i32 range while Armed, and
its least possible value is 1 - (2^31 - 1). The spec derives R30 from its other rules. -/
def Obligations.CountdownNeverLeavesRange : Prop :=
  ∀ (s : State) (e : Nat), s.Inv → s.heldScanCode ≠ 0 → (Instr.tick e).wf = true →
    1 - (2 ^ 31 - 1) ≤ s.countdownMs.toInt - e ∧ s.countdownMs.toInt - e < 2 ^ 31
end

