-- ==== Sys2Proof/Laws/State.lean ====
section
/-! SUPPORT. One lemma per field for each named update of State. -/

namespace Sys2Proof.Machine

section Emit
variable (e : OutputEvent) (s : State)

@[simp] theorem emit_prevMod : (s.emit e).prevMod = s.prevMod := rfl
@[simp] theorem emit_prevKeys : (s.emit e).prevKeys = s.prevKeys := rfl
@[simp] theorem emit_accDx : (s.emit e).accDx = s.accDx := rfl
@[simp] theorem emit_accDy : (s.emit e).accDy = s.accDy := rfl
@[simp] theorem emit_btnLeft : (s.emit e).btnLeft = s.btnLeft := rfl
@[simp] theorem emit_btnRight : (s.emit e).btnRight = s.btnRight := rfl
@[simp] theorem emit_heldScanCode : (s.emit e).heldScanCode = s.heldScanCode := rfl
@[simp] theorem emit_countdownMs : (s.emit e).countdownMs = s.countdownMs := rfl
@[simp] theorem emit_mouseControlAsserted : (s.emit e).mouseControlAsserted = s.mouseControlAsserted := rfl
@[simp] theorem emit_ledBrightness : (s.emit e).ledBrightness = s.ledBrightness := rfl
@[simp] theorem emit_keyInhibit : (s.emit e).keyInhibit = s.keyInhibit := rfl
@[simp] theorem emit_repeatDelayMs : (s.emit e).repeatDelayMs = s.repeatDelayMs := rfl
@[simp] theorem emit_repeatIntervalMs : (s.emit e).repeatIntervalMs = s.repeatIntervalMs := rfl
@[simp] theorem emit_ledState : (s.emit e).ledState = s.ledState := rfl
@[simp] theorem emit_transmitInhibited : (s.emit e).transmitInhibited = s.transmitInhibited := rfl
@[simp] theorem emit_inputs : (s.emit e).inputs = s.inputs := rfl
@[simp] theorem emit_outputs : (s.emit e).outputs = s.outputs ++ [e] := rfl

end Emit

section Arm
variable (scan : ScanCode) (s : State)

@[simp] theorem arm_prevMod : (s.arm scan).prevMod = s.prevMod := rfl
@[simp] theorem arm_prevKeys : (s.arm scan).prevKeys = s.prevKeys := rfl
@[simp] theorem arm_accDx : (s.arm scan).accDx = s.accDx := rfl
@[simp] theorem arm_accDy : (s.arm scan).accDy = s.accDy := rfl
@[simp] theorem arm_btnLeft : (s.arm scan).btnLeft = s.btnLeft := rfl
@[simp] theorem arm_btnRight : (s.arm scan).btnRight = s.btnRight := rfl
@[simp] theorem arm_heldScanCode : (s.arm scan).heldScanCode = scanByte scan := rfl
@[simp] theorem arm_countdownMs : (s.arm scan).countdownMs = msWord s.repeatDelayMs := rfl
@[simp] theorem arm_mouseControlAsserted : (s.arm scan).mouseControlAsserted = s.mouseControlAsserted := rfl
@[simp] theorem arm_ledBrightness : (s.arm scan).ledBrightness = s.ledBrightness := rfl
@[simp] theorem arm_keyInhibit : (s.arm scan).keyInhibit = s.keyInhibit := rfl
@[simp] theorem arm_repeatDelayMs : (s.arm scan).repeatDelayMs = s.repeatDelayMs := rfl
@[simp] theorem arm_repeatIntervalMs : (s.arm scan).repeatIntervalMs = s.repeatIntervalMs := rfl
@[simp] theorem arm_ledState : (s.arm scan).ledState = s.ledState := rfl
@[simp] theorem arm_transmitInhibited : (s.arm scan).transmitInhibited = s.transmitInhibited := rfl
@[simp] theorem arm_inputs : (s.arm scan).inputs = s.inputs := rfl
@[simp] theorem arm_outputs : (s.arm scan).outputs = s.outputs := rfl

end Arm

section Disarm
variable (s : State)

@[simp] theorem disarm_prevMod : s.disarm.prevMod = s.prevMod := rfl
@[simp] theorem disarm_prevKeys : s.disarm.prevKeys = s.prevKeys := rfl
@[simp] theorem disarm_accDx : s.disarm.accDx = s.accDx := rfl
@[simp] theorem disarm_accDy : s.disarm.accDy = s.accDy := rfl
@[simp] theorem disarm_btnLeft : s.disarm.btnLeft = s.btnLeft := rfl
@[simp] theorem disarm_btnRight : s.disarm.btnRight = s.btnRight := rfl
@[simp] theorem disarm_heldScanCode : s.disarm.heldScanCode = 0 := rfl
@[simp] theorem disarm_countdownMs : s.disarm.countdownMs = s.countdownMs := rfl
@[simp] theorem disarm_mouseControlAsserted : s.disarm.mouseControlAsserted = s.mouseControlAsserted := rfl
@[simp] theorem disarm_ledBrightness : s.disarm.ledBrightness = s.ledBrightness := rfl
@[simp] theorem disarm_keyInhibit : s.disarm.keyInhibit = s.keyInhibit := rfl
@[simp] theorem disarm_repeatDelayMs : s.disarm.repeatDelayMs = s.repeatDelayMs := rfl
@[simp] theorem disarm_repeatIntervalMs : s.disarm.repeatIntervalMs = s.repeatIntervalMs := rfl
@[simp] theorem disarm_ledState : s.disarm.ledState = s.ledState := rfl
@[simp] theorem disarm_transmitInhibited : s.disarm.transmitInhibited = s.transmitInhibited := rfl
@[simp] theorem disarm_inputs : s.disarm.inputs = s.inputs := rfl
@[simp] theorem disarm_outputs : s.disarm.outputs = s.outputs := rfl

end Disarm

section Resetregisters
variable (s : State)

@[simp] theorem resetRegisters_prevMod : (resetRegisters s).prevMod = State.reset.prevMod := rfl
@[simp] theorem resetRegisters_prevKeys : (resetRegisters s).prevKeys = State.reset.prevKeys := rfl
@[simp] theorem resetRegisters_accDx : (resetRegisters s).accDx = State.reset.accDx := rfl
@[simp] theorem resetRegisters_accDy : (resetRegisters s).accDy = State.reset.accDy := rfl
@[simp] theorem resetRegisters_btnLeft : (resetRegisters s).btnLeft = State.reset.btnLeft := rfl
@[simp] theorem resetRegisters_btnRight : (resetRegisters s).btnRight = State.reset.btnRight := rfl
@[simp] theorem resetRegisters_heldScanCode : (resetRegisters s).heldScanCode = State.reset.heldScanCode := rfl
@[simp] theorem resetRegisters_countdownMs : (resetRegisters s).countdownMs = State.reset.countdownMs := rfl
@[simp] theorem resetRegisters_mouseControlAsserted : (resetRegisters s).mouseControlAsserted = State.reset.mouseControlAsserted := rfl
@[simp] theorem resetRegisters_ledBrightness : (resetRegisters s).ledBrightness = State.reset.ledBrightness := rfl
@[simp] theorem resetRegisters_keyInhibit : (resetRegisters s).keyInhibit = State.reset.keyInhibit := rfl
@[simp] theorem resetRegisters_repeatDelayMs : (resetRegisters s).repeatDelayMs = State.reset.repeatDelayMs := rfl
@[simp] theorem resetRegisters_repeatIntervalMs : (resetRegisters s).repeatIntervalMs = State.reset.repeatIntervalMs := rfl
@[simp] theorem resetRegisters_ledState : (resetRegisters s).ledState = State.reset.ledState := rfl
@[simp] theorem resetRegisters_transmitInhibited : (resetRegisters s).transmitInhibited = State.reset.transmitInhibited := rfl
@[simp] theorem resetRegisters_inputs : (resetRegisters s).inputs = s.inputs := rfl
@[simp] theorem resetRegisters_outputs : (resetRegisters s).outputs = s.outputs := rfl

end Resetregisters

section Mousereport
variable (buttons x y : Byte) (s : State)

@[simp] theorem mouseReport_prevMod : (mouseReport buttons x y s).prevMod = s.prevMod := rfl
@[simp] theorem mouseReport_prevKeys : (mouseReport buttons x y s).prevKeys = s.prevKeys := rfl
@[simp] theorem mouseReport_accDx : (mouseReport buttons x y s).accDx = s.accDx + motion x := rfl
@[simp] theorem mouseReport_accDy : (mouseReport buttons x y s).accDy = s.accDy + motion y := rfl
@[simp] theorem mouseReport_btnLeft : (mouseReport buttons x y s).btnLeft = leftButton buttons := rfl
@[simp] theorem mouseReport_btnRight : (mouseReport buttons x y s).btnRight = rightButton buttons := rfl
@[simp] theorem mouseReport_heldScanCode : (mouseReport buttons x y s).heldScanCode = s.heldScanCode := rfl
@[simp] theorem mouseReport_countdownMs : (mouseReport buttons x y s).countdownMs = s.countdownMs := rfl
@[simp] theorem mouseReport_mouseControlAsserted : (mouseReport buttons x y s).mouseControlAsserted = s.mouseControlAsserted := rfl
@[simp] theorem mouseReport_ledBrightness : (mouseReport buttons x y s).ledBrightness = s.ledBrightness := rfl
@[simp] theorem mouseReport_keyInhibit : (mouseReport buttons x y s).keyInhibit = s.keyInhibit := rfl
@[simp] theorem mouseReport_repeatDelayMs : (mouseReport buttons x y s).repeatDelayMs = s.repeatDelayMs := rfl
@[simp] theorem mouseReport_repeatIntervalMs : (mouseReport buttons x y s).repeatIntervalMs = s.repeatIntervalMs := rfl
@[simp] theorem mouseReport_ledState : (mouseReport buttons x y s).ledState = s.ledState := rfl
@[simp] theorem mouseReport_transmitInhibited : (mouseReport buttons x y s).transmitInhibited = s.transmitInhibited := rfl
@[simp] theorem mouseReport_inputs : (mouseReport buttons x y s).inputs = s.inputs := rfl
@[simp] theorem mouseReport_outputs : (mouseReport buttons x y s).outputs = s.outputs := rfl

end Mousereport

end Sys2Proof.Machine
end

