-- ==== Sys2Proof/Laws/Ops.lean ====
section
/-! SUPPORT. For each shared operation one lemma that says everything it can do, and the tables' and the fetch's own lemmas. -/

namespace Sys2Proof.Machine

/-! ### Tables -/

theorem memRead_modtab (cfg : Config) (i : Fin 8) : memRead cfg .modtab i = some (scanByte (cfg.modScan i)) := by
  simp [memRead, i.isLt]

@[simp] theorem scanOfByte_scanByte (scan : ScanCode) : scanOfByte (scanByte scan) = scan := by
  apply BitVec.eq_of_getLsbD_eq
  intro i h
  simp [scanOfByte, scanByte, h]
  omega

theorem scanByte_toNat (scan : ScanCode) : (scanByte scan).toNat = scan.toNat := by
  simp only [scanByte, BitVec.truncate_eq_setWidth, BitVec.toNat_setWidth]
  omega

theorem scanByte_le (scan : ScanCode) : (scanByte scan).toNat ≤ 0x7F := by
  rw [scanByte_toNat]; omega

/-- In the table's range the lookup answers the entry (R111). -/
theorem keyLookup_in_range {cfg : Config} {u : Byte} (h1 : Config.keyBase ≤ u.toNat)
    (h2 : u.toNat < Config.keyBase + cfg.keyLen) :
    ∃ scan, cfg.keyTable[u.toNat - Config.keyBase]? = some scan ∧ keyLookup cfg u = some scan := by
  have hk : cfg.keyLen ≤ cfg.keyTable.length := Nat.min_le_left _ _
  have hlt : u.toNat - Config.keyBase < cfg.keyLen := by omega
  refine ⟨cfg.keyTable[u.toNat - Config.keyBase]'(by omega), by simp, ?_⟩
  simp [keyLookup, memRead, h1, h2, hlt]

/-- Outside the table's range it answers none (R42, R111). -/
theorem keyLookup_out_of_range {cfg : Config} {u : Byte}
    (h : ¬(Config.keyBase ≤ u.toNat ∧ u.toNat < Config.keyBase + cfg.keyLen)) : keyLookup cfg u = none := by
  simp [keyLookup, h]

/-! ### Keyboard -/

theorem gated_append (inhibited : Bool) (es fs : List OutputEvent) :
    gated inhibited (es ++ fs) = gated inhibited es ++ gated inhibited fs := by
  cases inhibited <;> simp [gated]

/-- All that `SendKeyByte` does (R116). -/
theorem sendKeyByte_eq (scan : ScanCode) (isMake : Bool) (s : State) :
    sendKeyByte scan isMake s = { s with outputs := s.outputs ++ gated s.transmitInhibited [.kbdTx (keyByte scan isMake), .act] } := by
  unfold sendKeyByte gated
  split <;> simp [State.emit]

/-- All that `RepeatTrack` does (R171). -/
theorem repeatTrack_eq (e : KeyEvent) (s : State) :
    repeatTrack e s =
      if e.isMake then (if e.isModifier then s else s.arm e.scan)
      else if s.heldScanCode = scanByte e.scan then s.disarm else s := by
  cases hm : e.isMake <;> cases hd : e.isModifier <;> simp [repeatTrack, hm, hd]

/-- The held code after one event (R172, R175). -/
def heldAfter1 (h : Byte) (e : KeyEvent) : Byte :=
  if e.isMake then (if e.isModifier then h else scanByte e.scan) else if h = scanByte e.scan then 0 else h

/-- The countdown after one event (R172, R175). -/
def countdownAfter1 (delay : BitVec 16) (c : BitVec 32) (e : KeyEvent) : BitVec 32 :=
  if e.isMake && !e.isModifier then msWord delay else c

/-- All that `KeyEvent` does (R114). -/
theorem keyEvent_eq (e : KeyEvent) (s : State) :
    keyEvent e s = { s with
      heldScanCode := heldAfter1 s.heldScanCode e
      countdownMs := countdownAfter1 s.repeatDelayMs s.countdownMs e
      outputs := s.outputs ++ gated s.transmitInhibited [.kbdTx (keyByte e.scan e.isMake), .act] } := by
  rw [keyEvent, sendKeyByte_eq, repeatTrack_eq]
  cases hm : e.isMake <;> cases hd : e.isModifier <;> by_cases hs : s.heldScanCode = scanByte e.scan <;>
    simp [heldAfter1, countdownAfter1, hm, hd, hs]

theorem keyEvents_nil (s : State) : keyEvents [] s = s := rfl

theorem keyEvents_cons (e : KeyEvent) (es : List KeyEvent) (s : State) :
    keyEvents (e :: es) s = keyEvents es (keyEvent e s) := rfl

theorem keyEvents_append (es fs : List KeyEvent) (s : State) :
    keyEvents (es ++ fs) s = keyEvents fs (keyEvents es s) := List.foldl_append

/-- All that a sequence of key events does: it moves the Repeat Timer and emits, and touches nothing else. -/
theorem keyEvents_eq (es : List KeyEvent) (s : State) :
    keyEvents es s = { s with
      heldScanCode := es.foldl heldAfter1 s.heldScanCode
      countdownMs := es.foldl (countdownAfter1 s.repeatDelayMs) s.countdownMs
      outputs := s.outputs ++ gated s.transmitInhibited (keyEventOutput es) } := by
  induction es generalizing s with
  | nil => simp [keyEvents_nil, keyEventOutput, gated]
  | cons e es ih =>
    rw [keyEvents_cons, ih, keyEvent_eq]
    simp [keyEventOutput, gated]
    split <;> simp

/-- The key events of one report, in the order of R90. -/
def reportEvents (cfg : Config) (oldMod mod : Byte) (old new : KeySlots) : List KeyEvent :=
  modifierEvents cfg oldMod mod ++ codeEvents cfg false (leaving old new) ++ codeEvents cfg true (leaving new old)

/-- All that `KBD_REPORT` does (R90): its events in order, then the snapshot (R94). -/
theorem kbdReport_eq (cfg : Config) (mod : Byte) (keys : KeySlots) (s : State) :
    kbdReport cfg mod keys s =
      { keyEvents (reportEvents cfg s.prevMod mod s.prevKeys keys) s with prevMod := mod, prevKeys := keys } := by
  simp only [kbdReport, modifierPass, breakPass, makePass, reportEvents, keyEvents_append]
  simp only [keyEvents_eq]

/-! ### Mouse -/

/-- All that the emission of a packet does (R132, R134, R136). -/
theorem sendMousePacket_eq (b0 b1 b2 : Byte) (s : State) :
    sendMousePacket b0 b1 b2 s =
      if s.transmitInhibited then s
      else { s with accDx := 0, accDy := 0,
                    outputs := s.outputs ++ .mouseTx b0 b1 b2 :: if packetIsZero b0 b1 b2 then [] else [.act] } := by
  unfold sendMousePacket
  split
  · rfl
  · cases packetIsZero b0 b1 b2 <;> simp [State.emit]

theorem trunc8_toNat (v : Int) : ((trunc8 v).toNat : Int) = v % 256 := by
  simp only [trunc8, BitVec.toNat_ofInt]
  omega

/-! ### Repeat Timer -/

theorem msWord_toInt (ms : BitVec 16) : (msWord ms).toInt = ms.toNat := by
  simp only [msWord, BitVec.truncate_eq_setWidth, BitVec.toInt_eq_toNat_cond, BitVec.toNat_setWidth]
  have := ms.isLt
  split <;> omega

/-- A positive difference is stored exactly (R174; log 20). -/
theorem countdown_sub_toInt {c : BitVec 32} {e : Nat} (h : ¬ c.toInt - e ≤ 0) :
    (BitVec.ofInt 32 (c.toInt - e)).toInt = c.toInt - e := by
  have := @BitVec.toInt_lt 32 c
  rw [BitVec.toInt_ofInt, Int.bmod_eq_of_le] <;> omega

/-- The three things a `TICK` can do (R174). -/
theorem tick_cases (e : Nat) (s : State) :
    (s.heldScanCode = 0 ∧ tick e s = s) ∨
    (s.heldScanCode ≠ 0 ∧ s.countdownMs.toInt - e ≤ 0 ∧
      tick e s = { s with
        outputs := s.outputs ++ gated s.transmitInhibited [.kbdTx (keyByte (scanOfByte s.heldScanCode) true), .act]
        countdownMs := msWord s.repeatIntervalMs }) ∨
    (s.heldScanCode ≠ 0 ∧ 0 < s.countdownMs.toInt - e ∧
      tick e s = { s with countdownMs := BitVec.ofInt 32 (s.countdownMs.toInt - e) }) := by
  by_cases h0 : s.heldScanCode = 0
  · exact .inl ⟨h0, by simp [tick, h0]⟩
  · by_cases hc : s.countdownMs.toInt - e ≤ 0
    · exact .inr (.inl ⟨h0, hc, by rw [tick, if_neg h0, if_pos hc, sendKeyByte_eq]⟩)
    · exact .inr (.inr ⟨h0, by omega, by rw [tick, if_neg h0, if_neg hc]⟩)

/-! ### Input sequence -/

@[simp] theorem fetch_nil {s : State} (h : s.inputs = []) : s.fetch = none := by simp [State.fetch, h]

@[simp] theorem fetch_cons {s : State} {t : Input} {rest : List Input} (h : s.inputs = t :: rest) :
    s.fetch = some (t, { s with inputs := rest }) := by simp [State.fetch, h]

end Sys2Proof.Machine
end

