-- ==== Sys2Proof/Laws/Exec.lean ====
section
/-! SUPPORT. What the meanings do, said once: the mouse attempt and MSCTRL as equations, CTRL_BYTE as the command it selects, and
`exec` as a function on states. -/

namespace Sys2Proof.Machine

/-- All that an attempt does (R132). -/
theorem mouseTransmitAttempt_eq (s : State) :
    mouseTransmitAttempt s =
      if s.transmitInhibited then s
      else { s with accDx := 0, accDy := 0,
                    outputs := s.outputs ++
                      .mouseTx (mouseByte0 s.btnLeft s.btnRight s.accDx s.accDy) (trunc8 s.accDx) (trunc8 s.accDy) ::
                        if packetIsZero (mouseByte0 s.btnLeft s.btnRight s.accDx s.accDy) (trunc8 s.accDx) (trunc8 s.accDy)
                        then [] else [.act] } := by
  rw [mouseTransmitAttempt, sendMousePacket_eq]

/-- All that MSCTRL does (R152). -/
theorem setMouseControl_eq (asserted : Bool) (s : State) :
    setMouseControl asserted s =
      if s.mouseControlAsserted = false ∧ asserted = true then
        mouseTransmitAttempt { s with mouseControlAsserted := true }
      else { s with mouseControlAsserted := asserted } := by
  cases h : s.mouseControlAsserted <;> cases asserted <;> simp [setMouseControl, h]

/-- The state an operation leaves (R210: there always is one). CTRL_BYTE does what the command its byte selects does. -/
def applied : Instr → State → State
  | .msctrl m _, s => setMouseControl (activeLow m) s
  | .ledbrt v, s => { s with ledBrightness := v }
  | .keyinh k _, s => { s with keyInhibit := activeLow k }
  | .rptdly d, s => { s with repeatDelayMs := delayMs d }
  | .rptint r, s => { s with repeatIntervalMs := intervalMs r }
  | .ledset l, s => { s with ledState := l }
  | .ctrlNop00 _, s | .ctrlNop48 _, s | .ctrlNop50 _, s => s
  | .reset, s => resetRegisters s
  | .kbdReport m k0 k1 k2 k3 k4 k5, s => kbdReport Config.installed m ⟨k0, k1, k2, k3, k4, k5⟩ s
  | .mouseReport b x y, s => mouseReport b x y s
  | .ctrlByte b, s =>
    match decodeCtrl b with
    | .msctrl m _ => setMouseControl (activeLow m) s
    | .ledbrt v => { s with ledBrightness := v }
    | .keyinh k _ => { s with keyInhibit := activeLow k }
    | .rptdly d => { s with repeatDelayMs := delayMs d }
    | .rptint r => { s with repeatIntervalMs := intervalMs r }
    | .ledset l => { s with ledState := l }
    | _ => s
  | .tick e, s => tick e s
  | .inhibitFall, s => { s with transmitInhibited := true }
  | .inhibitRise, s => { s with transmitInhibited := false }
  | .mreqFall, s => mouseTransmitAttempt s
  | .mreqRise, s => s
  | .kbdTx brk scan, s => sendKeyByte scan (!brk) s
  | .mouseTx yon yop xon xop r l dx dy, s => sendMousePacket (packetByte0Layout yon yop xon xop r l) dx dy s

/-- The shapes a control byte's command can have (R65, R66). -/
theorem decodeCtrl_shapes (b : Byte) :
    (∃ m x, decodeCtrl b = .msctrl m x) ∨ (∃ v, decodeCtrl b = .ledbrt v) ∨ (∃ k x, decodeCtrl b = .keyinh k x) ∨
    (∃ d, decodeCtrl b = .rptdly d) ∨ (∃ r, decodeCtrl b = .rptint r) ∨ (∃ l, decodeCtrl b = .ledset l) ∨
    (∃ x, decodeCtrl b = .ctrlNop00 x) ∨ (∃ x, decodeCtrl b = .ctrlNop48 x) ∨ (∃ x, decodeCtrl b = .ctrlNop50 x) := by
  generalize h : decodeCtrl b = i
  unfold decodeCtrl at h
  repeat' split at h
  all_goals (subst h; simp)

/-- CTRL_BYTE as a function on states (R150). -/
theorem execCtrlByte_eq (b : Byte) (s : State) : execCtrlByte b s = .next (applied (.ctrlByte b) s) := by
  simp only [applied]
  unfold execCtrlByte decodeCtrl
  by_cases h1 : b &&& 0xF8 = 0x40
  · rw [if_pos h1, if_pos h1]; rfl
  rw [if_neg h1, if_neg h1]
  by_cases h2 : b &&& 0xFC = 0x54
  · rw [if_pos h2, if_pos h2]; rfl
  rw [if_neg h2, if_neg h2]
  by_cases h3 : b &&& 0xF8 = 0x58
  · rw [if_pos h3, if_pos h3]; rfl
  rw [if_neg h3, if_neg h3]
  by_cases h4 : b &&& 0xF0 = 0x60
  · rw [if_pos h4, if_pos h4]; rfl
  rw [if_neg h4, if_neg h4]
  by_cases h5 : b &&& 0xF0 = 0x70
  · rw [if_pos h5, if_pos h5]; rfl
  rw [if_neg h5, if_neg h5]
  by_cases h6 : b &&& 0x80 = 0x80
  · rw [if_pos h6, if_pos h6]; rfl
  rw [if_neg h6, if_neg h6]
  by_cases h7 : b &&& 0xC0 = 0x00
  · rw [if_pos h7]
  rw [if_neg h7]
  by_cases h8 : b &&& 0xF8 = 0x48
  · rw [if_pos h8]
  · rw [if_neg h8]

/-- Every operation answers a next state, and this is it. -/
theorem exec_eq (i : Instr) (s : State) : exec i s = .next (applied i s) := by
  cases i with
  | ctrlByte b => exact execCtrlByte_eq b s
  | _ => rfl

/-- The state that an answer of `exec` holds. -/
theorem exec_next {i : Instr} {s t : State} (h : exec i s = .next t) : t = applied i s := by
  rw [exec_eq] at h
  injection h with h
  exact h.symm

end Sys2Proof.Machine
end

