-- ==== Sys2Proof/Laws/PerInstr.lean ====
section
/-! SUPPORT. The per-instruction family EncodedLength: every row of the table encodes to a payload of the fixed length that its
port's format has (R45, R60 to R64, R68, R69). -/

namespace Sys2Proof.Laws

/-- The payload length of a port: the fixed record of R45, on the output side one byte (R68) or three (R69). -/
def EncodedLength.portBytes : Port → Nat
  | .input p => p.payloadBytes
  | .output .kbdTx => 1
  | .output .mouseTx => 3

/-- The encoding of the instruction is as long as its port's records are. -/
def EncodedLength.Statement (i : Instr) : Prop := (encode i).2.length = EncodedLength.portBytes (encode i).1

theorem EncodedLength.msctrl (m : BitVec 1) (ignored : BitVec 2) : EncodedLength.Statement (.msctrl m ignored) := rfl
theorem EncodedLength.ledbrt (v : BitVec 2) : EncodedLength.Statement (.ledbrt v) := rfl
theorem EncodedLength.keyinh (k : BitVec 1) (ignored : BitVec 2) : EncodedLength.Statement (.keyinh k ignored) := rfl
theorem EncodedLength.rptdly (d : BitVec 4) : EncodedLength.Statement (.rptdly d) := rfl
theorem EncodedLength.rptint (r : BitVec 4) : EncodedLength.Statement (.rptint r) := rfl
theorem EncodedLength.ledset (l : BitVec 7) : EncodedLength.Statement (.ledset l) := rfl
theorem EncodedLength.ctrlNop00 (ignored : BitVec 6) : EncodedLength.Statement (.ctrlNop00 ignored) := rfl
theorem EncodedLength.ctrlNop48 (ignored : BitVec 3) : EncodedLength.Statement (.ctrlNop48 ignored) := rfl
theorem EncodedLength.ctrlNop50 (ignored : BitVec 2) : EncodedLength.Statement (.ctrlNop50 ignored) := rfl
theorem EncodedLength.reset : EncodedLength.Statement .reset := rfl
theorem EncodedLength.kbdReport (mod k0 k1 k2 k3 k4 k5 : Byte) :
    EncodedLength.Statement (.kbdReport mod k0 k1 k2 k3 k4 k5) := rfl
theorem EncodedLength.mouseReport (buttons x y : Byte) : EncodedLength.Statement (.mouseReport buttons x y) := rfl
theorem EncodedLength.ctrlByte (b : Byte) : EncodedLength.Statement (.ctrlByte b) := rfl
theorem EncodedLength.tick (e : Nat) : EncodedLength.Statement (.tick e) := rfl
theorem EncodedLength.inhibitFall : EncodedLength.Statement .inhibitFall := rfl
theorem EncodedLength.inhibitRise : EncodedLength.Statement .inhibitRise := rfl
theorem EncodedLength.mreqFall : EncodedLength.Statement .mreqFall := rfl
theorem EncodedLength.mreqRise : EncodedLength.Statement .mreqRise := rfl
theorem EncodedLength.kbdTx (brk : Bool) (scan : ScanCode) : EncodedLength.Statement (.kbdTx brk scan) := rfl
theorem EncodedLength.mouseTx (yon yop xon xop right left : Bool) (dx dy : Byte) :
    EncodedLength.Statement (.mouseTx yon yop xon xop right left dx dy) := rfl

end Sys2Proof.Laws
end

