-- ==== Sys2Proof/Tests/Slice0.lean ====
section
/-! SUPPORT. The model's own tests. The expected values are words written out from the encodings of 30_encoding.md, and the vectors
of 95_test_vectors.md (V-…, named at each test); then a witness for every statement that has hypotheses. -/

namespace Sys2Proof.Tests

open Sys2Proof.Machine

/-! ### Fixtures -/

/-- The fixture `CFG_T` of 95_test_vectors.md section 1: no statement about the hardware's tables. -/
def cfgT : Config where
  keyTable := [0x1E, 0x2E, 0x2C, 0x20, 0x13, 0x21, 0x22, 0x23, 0x18, 0x24, 0x25, 0x26, 0x30,
               0x2F, 0x19, 0x1A, 0x11, 0x14, 0x1F, 0x15, 0x17, 0x2D, 0x12, 0x2B, 0x16, 0x2A]
  modScan := ![0x71, 0x70, 0x72, 0x73, 0x71, 0x70, 0x72, 0x73]

/-- The fixture `CFG_U` of 95_test_vectors.md section 1. -/
def cfgU : Config where
  keyTable := [0x70, 0x00]
  modScan := fun _ => 0x70

/-- Six key slots from their first three. -/
def keys (a b c : Byte) : KeySlots := ⟨a, b, c, 0, 0, 0⟩

/-- The reset state with accumulated motion and latched buttons. -/
def mouseAt (dx dy : Int) (left right : Bool) : State :=
  { State.reset with accDx := dx, accDy := dy, btnLeft := left, btnRight := right }

/-- The start state of the vectors V-R1 to V-R8. -/
def armedAt (countdown : BitVec 32) : State := { State.reset with heldScanCode := 0x1E, countdownMs := countdown }

/-- The reset state with the gate flag set. -/
def inhibited : State := { State.reset with transmitInhibited := true }

/-- The reset state with transfers waiting. -/
def waiting (ts : List Input) : State := { State.reset with inputs := ts }

/-! ### Well-formedness: an ill-formed term for each check -/

theorem test_wf_refuses_tick_of_2_pow_31 : (Instr.tick 0x80000000).wf = false := by decide
theorem test_wf_refuses_both_x_overflows : (Instr.mouseTx false false true true false false 0 0).wf = false := by decide
theorem test_wf_refuses_both_y_overflows : (Instr.mouseTx true true false false false false 0 0).wf = false := by decide
theorem test_wf_accepts_largest_tick : (Instr.tick 0x7FFFFFFF).wf = true := by decide

/-! ### Decoding: every row's word, bit by bit from its format -/

theorem test_decode_msctrl : decode (.input .ctrlByte) [0b01000111] = .ok (.msctrl 1 3) := by decide
theorem test_decode_msctrl_mask_is_five_bits : decode (.input .ctrlByte) [0b01000100] = .ok (.msctrl 0 2) := by decide
theorem test_decode_ledbrt : decode (.input .ctrlByte) [0b01010110] = .ok (.ledbrt 2) := by decide
theorem test_decode_keyinh : decode (.input .ctrlByte) [0b01011110] = .ok (.keyinh 0 3) := by decide
theorem test_decode_rptdly : decode (.input .ctrlByte) [0b01100011] = .ok (.rptdly 3) := by decide
theorem test_decode_rptint : decode (.input .ctrlByte) [0b01110010] = .ok (.rptint 2) := by decide
theorem test_decode_ledset : decode (.input .ctrlByte) [0b10101010] = .ok (.ledset 0x2A) := by decide
theorem test_decode_ctrlNop00 : decode (.input .ctrlByte) [0b00111111] = .ok (.ctrlNop00 0x3F) := by decide
theorem test_decode_ctrlNop48 : decode (.input .ctrlByte) [0b01001101] = .ok (.ctrlNop48 5) := by decide
theorem test_decode_ctrlNop50 : decode (.input .ctrlByte) [0b01010011] = .ok (.ctrlNop50 3) := by decide
theorem test_decode_reset : decode (.input .reset) [] = .ok .reset := by decide
theorem test_decode_kbdReport :
    decode (.input .kbdReport) [0x02, 0x04, 0x05, 0x06, 0x07, 0x08, 0x09] = .ok (.kbdReport 2 4 5 6 7 8 9) := by decide
theorem test_decode_mouseReport : decode (.input .mouseReport) [0x01, 0x64, 0x9C] = .ok (.mouseReport 1 100 (-100)) := by decide
theorem test_decode_tick : decode (.input .tick) [0x01, 0x02, 0x03, 0xF4] = .ok (.tick 0x010203F4) := by decide
theorem test_decode_inhibitFall : decode (.input .inhibitFall) [] = .ok .inhibitFall := by decide
theorem test_decode_inhibitRise : decode (.input .inhibitRise) [] = .ok .inhibitRise := by decide
theorem test_decode_mreqFall : decode (.input .mreqFall) [] = .ok .mreqFall := by decide
theorem test_decode_mreqRise : decode (.input .mreqRise) [] = .ok .mreqRise := by decide
theorem test_decode_kbdTx : decode (.output .kbdTx) [0b10011110] = .ok (.kbdTx true 0x1E) := by decide
theorem test_decode_mouseTx :
    decode (.output .mouseTx) [0b10010001, 0xC8, 0x38] =
      .ok (.mouseTx true false false true false true 0xC8 0x38) := by decide
/-- CTRL_BYTE's own constructor encodes to its byte; as a transfer the byte is the command it selects. -/
theorem test_encode_ctrlByte : encode (.ctrlByte 0x56) = (.input .ctrlByte, [0b01010110]) := by decide

theorem test_decode_refuses_short_keyboard_report : decode (.input .kbdReport) [2, 4] = .error (.wrongLength 7 2) := by decide
theorem test_decode_refuses_payload_on_an_edge : decode (.input .mreqFall) [0] = .error (.wrongLength 0 1) := by decide
theorem test_decode_refuses_tick_of_2_pow_31 : decode (.input .tick) [0x80, 0, 0, 0] = .error .tickOutOfRange := by decide
theorem test_decode_refuses_packet_reserved_bits : decode (.output .mouseTx) [0x04, 0, 0] = .error .packetReservedBits := by decide
theorem test_decode_refuses_packet_both_overflows :
    decode (.output .mouseTx) [0x30, 0, 0] = .error .packetBothOverflows := by decide

/-- V-C12: the bytes on either side of each boundary of the opcode map. -/
theorem test_control_map_boundaries :
    ([0x3F, 0x40, 0x47, 0x48, 0x4F, 0x50, 0x53, 0x54, 0x57, 0x58, 0x5F, 0x60, 0x6F, 0x70, 0x7F, 0x80, 0xFF] : List Byte).map decodeCtrl =
      [.ctrlNop00 0x3F, .msctrl 0 0, .msctrl 1 3, .ctrlNop48 0, .ctrlNop48 7, .ctrlNop50 0, .ctrlNop50 3, .ledbrt 0, .ledbrt 3,
       .keyinh 0 0, .keyinh 1 3, .rptdly 0, .rptdly 15, .rptint 0, .rptint 15, .ledset 0, .ledset 0x7F] := by decide

/-- Table words: the first payload byte is the leftmost of the table's pattern; a width without payload selects by number (log 3). -/
theorem test_table_words :
    decodeTableWord 24 0x01649C = some (.mouseReport 1 100 0x9C) ∧
    decodeTableWord 56 0x02040506070809 = some (.kbdReport 2 4 5 6 7 8 9) ∧
    decodeTableWord 8 0x63 = some (.rptdly 3) ∧ decodeTableWord 32 500 = some (.tick 500) ∧
    decodeTableWord 0 0 = some .reset ∧ decodeTableWord 0 4 = some .mreqRise ∧ decodeTableWord 16 0 = none := by decide

/-- The very next step runs the word that `withFetchWord` presents. -/
theorem test_step_runs_table_word : step (State.reset.withFetchWord 8 0x63) = exec (.rptdly 3) State.reset := rfl

/-! ### Operations -/

/-- V-C3, V-C11: a transition attempts at once, and bit 2 is ignored. -/
theorem test_msctrl_attempts : exec (.msctrl 0 2) { State.reset with accDx := 5 } =
    .next { State.reset with mouseControlAsserted := true, outputs := [.mouseTx 0x00 0x05 0x00, .act] } := rfl
/-- V-C2: true to true triggers nothing. -/
theorem test_msctrl_no_transition : exec (.msctrl 0 0) { State.reset with mouseControlAsserted := true } =
    .next { State.reset with mouseControlAsserted := true } := rfl
/-- V-C4. -/
theorem test_ledbrt : exec (.ledbrt 2) State.reset = .next { State.reset with ledBrightness := 2 } := rfl
/-- V-C5: a 0 sets the flag. -/
theorem test_keyinh : exec (.keyinh 0 3) State.reset = .next { State.reset with keyInhibit := true } := rfl
/-- V-C6, V-R8: the largest delay; the running countdown stays. -/
theorem test_rptdly : exec (.rptdly 15) (armedAt 500) = .next { armedAt 500 with repeatDelayMs := 1700 } := rfl
/-- V-C7: squaring. -/
theorem test_rptint : exec (.rptint 15) (armedAt 500) = .next { armedAt 500 with repeatIntervalMs := 1155 } := rfl
/-- V-C8. -/
theorem test_ledset : exec (.ledset 0x2A) State.reset = .next { State.reset with ledState := 0x2A } := rfl
/-- V-C9. -/
theorem test_ctrlNop00 : exec (.ctrlNop00 0x3F) inhibited = .next inhibited := rfl
/-- V-C9. -/
theorem test_ctrlNop48 : exec (.ctrlNop48 0) inhibited = .next inhibited := rfl
/-- V-C9. -/
theorem test_ctrlNop50 : exec (.ctrlNop50 3) inhibited = .next inhibited := rfl
/-- V-C1: from reset the first 0x40 sends an empty packet and no activity trigger. -/
theorem test_ctrlByte_msctrl : exec (.ctrlByte 0x40) State.reset =
    .next { State.reset with mouseControlAsserted := true, outputs := [.mouseTx 0 0 0] } := rfl
/-- V-C9 and the source's example of R156. -/
theorem test_ctrlByte_nop_and_rptint : exec (.ctrlByte 0x4F) State.reset = .next State.reset ∧
    exec (.ctrlByte 0x72) State.reset = .next { State.reset with repeatIntervalMs := 50 } := ⟨rfl, rfl⟩
/-- V-X1. -/
theorem test_reset :
    exec .reset
      { armedAt 37 with
        prevMod := 2, prevKeys := keys 4 5 6, accDx := -5, accDy := 5, btnLeft := true, btnRight := true
        mouseControlAsserted := true, ledBrightness := 3, keyInhibit := true, repeatDelayMs := 200
        repeatIntervalMs := 30, ledState := 1, transmitInhibited := true } =
      .next State.reset := rfl
/-- V-K3, from the state after V-K2: modifier break, key break, key make; the timer holds the new key. -/
theorem test_kbdReport_order : kbdReport cfgT 0x00 (keys 5 0 0)
      { armedAt 500 with prevMod := 0x02, prevKeys := keys 4 0 0 } =
    { State.reset with prevKeys := keys 5 0 0, heldScanCode := 0x2E, countdownMs := 500
                       outputs := [.kbdTx 0xF0, .act, .kbdTx 0x9E, .act, .kbdTx 0x2E, .act] } := by decide
/-- V-K7: a rollover report breaks every key in the old slot order, and the break of the held code clears the timer. -/
theorem test_kbdReport_rollover : kbdReport cfgT 0 ⟨1, 1, 1, 1, 1, 1⟩
      { State.reset with prevKeys := keys 4 5 0, heldScanCode := 0x2E, countdownMs := 37 } =
    { State.reset with prevKeys := ⟨1, 1, 1, 1, 1, 1⟩, countdownMs := 37
                       outputs := [.kbdTx 0x9E, .act, .kbdTx 0xAE, .act] } := by decide
/-- V-K4, V-K6: three modifier bits change, an unmapped code enters and two keys change slots; the timer is left alone. -/
theorem test_modifierPass : kbdReport cfgT 0x21 (keys 0x1E 5 4) { armedAt 37 with prevMod := 0x02, prevKeys := keys 4 5 0 } =
    { armedAt 37 with prevMod := 0x21, prevKeys := keys 0x1E 5 4
                      outputs := [.kbdTx 0x71, .act, .kbdTx 0xF0, .act, .kbdTx 0x70, .act] } := by decide
/-- V-R14, last step: a modifier break with the held code clears the timer (C4). -/
theorem test_modifier_break_clears_held : kbdReport cfgU 0x00 (keys 4 0 0)
      { State.reset with prevMod := 0x02, prevKeys := keys 4 0 0, heldScanCode := 0x70, countdownMs := 500 } =
    { State.reset with prevKeys := keys 4 0 0, countdownMs := 500, outputs := [.kbdTx 0xF0, .act] } := by decide
/-- V-R15: scan code 0 leaves the timer Idle. -/
theorem test_scan_code_zero_is_idle : kbdReport cfgU 0x00 (keys 5 0 0) State.reset =
    { State.reset with prevKeys := keys 5 0 0, countdownMs := 500, outputs := [.kbdTx 0x00, .act] } := by decide
/-- R111, the corners of the range. -/
theorem test_keyLookup : keyLookup cfgT 0x03 = none ∧ keyLookup cfgT 0x04 = some 0x1E ∧ keyLookup cfgT 0x1D = some 0x2A ∧
    keyLookup cfgT 0x1E = none := by decide
/-- The four classes of R70. -/
theorem test_usageClass : ([0, 3, 4, 0x1D, 0x1E] : List Byte).map (usageClass cfgT) =
    [.empty, .reserved, .mapped, .mapped, .unmapped] := by decide
/-- V-M1, second report; V-M11: the other button bits are ignored. -/
theorem test_mouseReport : exec (.mouseReport 0xFD 100 0x9C) (mouseAt 100 (-100) true true) =
    .next (mouseAt 200 (-200) true false) := rfl
/-- V-R3, V-R4: one short of the countdown, and exactly at it. -/
theorem test_tick : exec (.tick 499) (armedAt 500) = .next (armedAt 1) ∧
    exec (.tick 500) (armedAt 500) = .next { armedAt 110 with outputs := [.kbdTx 0x1E, .act] } := ⟨rfl, rfl⟩
/-- V-R5, V-R9: one synthetic make however large the tick; Idle, nothing. -/
theorem test_tick_overshoot_and_idle :
    exec (.tick 100000) (armedAt 500) = .next { armedAt 110 with outputs := [.kbdTx 0x1E, .act] } ∧
    exec (.tick 5000) { State.reset with countdownMs := 7 } = .next { State.reset with countdownMs := 7 } := ⟨rfl, rfl⟩
/-- V-G1. -/
theorem test_inhibitFall : exec .inhibitFall State.reset = .next inhibited := rfl
/-- V-G3. -/
theorem test_inhibitRise : exec .inhibitRise inhibited = .next State.reset := rfl
/-- V-M2, V-M5: wrap and flags on both axes. -/
theorem test_mreqFall :
    exec .mreqFall (mouseAt 200 (-200) true false) =
      .next { mouseAt 0 0 true false with outputs := [.mouseTx 0x91 0xC8 0x38, .act] } ∧
    exec .mreqFall (mouseAt (-129) 128 false true) =
      .next { mouseAt 0 0 false true with outputs := [.mouseTx 0x62 0x7F 0x80, .act] } := ⟨rfl, rfl⟩
/-- V-M10, V-M4: data bytes of zero with a flag do trigger activity, an empty packet does not. -/
theorem test_mreqFall_activity :
    exec .mreqFall (mouseAt (-256) 0 false false) = .next { State.reset with outputs := [.mouseTx 0x20 0 0, .act] } ∧
    exec .mreqFall State.reset = .next { State.reset with outputs := [.mouseTx 0 0 0] } := ⟨rfl, rfl⟩
/-- V-M14. -/
theorem test_mreqRise : exec .mreqRise (mouseAt 5 0 false false) = .next (mouseAt 5 0 false false) := rfl
/-- V-K15, the break byte, sent; V-K14, dropped. -/
theorem test_kbdTx : exec (.kbdTx true 0x1E) State.reset = .next { State.reset with outputs := [.kbdTx 0x9E, .act] } ∧
    exec (.kbdTx true 0x1E) inhibited = .next inhibited := ⟨rfl, rfl⟩
/-- R69's layout and R136. -/
theorem test_mouseTx : exec (.mouseTx true false false true false true 0xC8 0x38) (mouseAt 200 (-200) true false) =
    .next { mouseAt 0 0 true false with outputs := [.mouseTx 0x91 0xC8 0x38, .act] } := rfl

/-! ### Witnesses: for every statement with hypotheses, a state and operands that meet them -/

/-- DecodeOfEncode, EncodeOfDecode: the boundary of TICK's range. -/
theorem test_witness_decode_of_encode : (Instr.tick 0x7FFFFFFF).wf = true ∧
    decode (encode (.tick 0x7FFFFFFF)).1 (encode (.tick 0x7FFFFFFF)).2 = .ok (.tick 0x7FFFFFFF) := by decide
/-- StepRunsDecodedInstruction. -/
theorem test_witness_step_runs : (waiting [⟨.ctrlByte, [0x63]⟩]).inputs = ⟨.ctrlByte, [0x63]⟩ :: [] ∧
    decodeInput .ctrlByte [0x63] = .ok (.rptdly 3) := by decide
/-- StepHoldsWithoutInput. -/
theorem test_witness_step_holds : State.reset.inputs = [] ∧ step State.reset = .next State.reset := ⟨rfl, rfl⟩
/-- RefusesOnlyMalformedTransfers: on both sides of the boundary of each disjunct. -/
theorem test_witness_refusals :
    step (waiting [⟨.ctrlByte, []⟩]) = .refused (.malformedTransfer .ctrlByte (.wrongLength 1 0)) ∧
    step (waiting [⟨.tick, [0x80, 0, 0, 0]⟩]) = .refused (.malformedTransfer .tick .tickOutOfRange) ∧
    step (waiting [⟨.tick, [0x7F, 0xFF, 0xFF, 0xFF]⟩]) = .next State.reset := ⟨rfl, rfl, rfl⟩
/-- RunPerformsInputSequence. -/
theorem test_witness_run : ∀ i ∈ [Instr.inhibitFall, .ctrlByte 0x40, .tick 0x7FFFFFFF, .mreqFall, .reset],
    i.wf = true ∧ i.isInput = true := by decide
/-- MouseControlCommand: the boundary bytes, one for each branch. -/
theorem test_witness_msctrl_bytes : ∀ b ∈ ([0x40, 0x47] : List Byte), b &&& 0xF8 = 0x40 := by decide
/-- LedBrightnessCommand. -/
theorem test_witness_ledbrt_bytes : ∀ b ∈ ([0x54, 0x57] : List Byte), b &&& 0xFC = 0x54 := by decide
/-- KeyInhibitCommand: the boundary bytes, and an operation that answers. -/
theorem test_witness_keyinh : (∀ b ∈ ([0x58, 0x5F] : List Byte), b &&& 0xF8 = 0x58) ∧
    exec .mreqFall State.reset = .next { State.reset with outputs := [.mouseTx 0 0 0] } := ⟨by decide, rfl⟩
/-- RepeatDelayCommand. -/
theorem test_witness_rptdly_bytes : ∀ b ∈ ([0x60, 0x6F] : List Byte), b &&& 0xF0 = 0x60 := by decide
/-- RepeatIntervalCommand: the boundary bytes, and a tick that reaches the countdown exactly. -/
theorem test_witness_rptint : (∀ b ∈ ([0x70, 0x7F] : List Byte), b &&& 0xF0 = 0x70) ∧
    (armedAt 500).heldScanCode ≠ 0 ∧ (armedAt 500).countdownMs.toInt ≤ (500 : Nat) := by decide
/-- LedStateCommand. -/
theorem test_witness_ledset_bytes : ∀ b ∈ ([0x80, 0xFF] : List Byte), b &&& 0x80 = 0x80 := by decide
/-- UnmatchedBytesAreDiscarded: both ends of the three ranges. -/
theorem test_witness_discard_bytes : ∀ b ∈ ([0x00, 0x3F, 0x48, 0x4F, 0x50, 0x53] : List Byte),
    b.toNat ≤ 0x3F ∨ (0x48 ≤ b.toNat ∧ b.toNat ≤ 0x4F) ∨ (0x50 ≤ b.toNat ∧ b.toNat ≤ 0x53) := by decide
/-- KeyLookupIsDense: the first and the last code of the table. -/
theorem test_witness_lookup_range : ∀ u ∈ ([0x04, 0x1D] : List Byte), 4 ≤ u.toNat ∧ u.toNat < 4 + cfgT.keyLen := by decide
/-- DifferencerIsMinimal: snapshots without repeats (though with a reserved code twice), and a state that transmits. -/
theorem test_witness_no_repeat : (KeySlots.mk 4 5 6 1 1 0).NoRepeat ∧ (KeySlots.mk 6 7 0 0 0 0).NoRepeat ∧
    transitionCodes cfgT ⟨4, 5, 6, 1, 1, 0⟩ ⟨6, 7, 0, 0, 0, 0⟩ = [4, 5, 7] ∧ State.reset.transmitInhibited = false := by decide
/-- UnmappedCodesLeaveNoTrace: a code leaves, another enters, a mapped one stays. -/
theorem test_witness_unmapped : (∀ u ∈ (keys 4 0x1E 0).toList, u ∉ (keys 0xE1 4 0).toList → keyLookup cfgT u = none) ∧
    (∀ u ∈ (keys 0xE1 4 0).toList, u ∉ (keys 4 0x1E 0).toList → keyLookup cfgT u = none) := by decide
/-- FiniteAccumulatorAgrees: a sum at the top of an 8-bit range and one at its bottom. -/
theorem test_witness_finite_accumulator : (100 : BitVec 8).toInt = (mouseAt 100 (-100) false false).accDx ∧
    (-100 : BitVec 8).toInt = (mouseAt 100 (-100) false false).accDy ∧
    accFits 8 (100 + (27 : Byte).toInt) ∧ accFits 8 (-100 + (0xE4 : Byte).toInt) := by decide
/-- PacketDataBytesWrap, MouseRequestTransmits: accumulators on both sides of the boundary, both gate values. -/
theorem test_witness_packet : (mouseAt 127 (-128) false false).transmitInhibited = false ∧
    (mouseAt 128 (-129) false false).transmitInhibited = false ∧ inhibited.transmitInhibited = true := by decide
/-- MousePacketOccasions: each of the two occasions, and none while inhibited. -/
theorem test_witness_packet_occasions :
    exec .mreqFall State.reset = .next { State.reset with outputs := [.mouseTx 0 0 0] } ∧ Instr.isInput .mreqFall = true ∧
    exec (.msctrl 0 0) State.reset = .next { State.reset with mouseControlAsserted := true, outputs := [.mouseTx 0 0 0] } ∧
    Instr.isInput (.msctrl 0 0) = true ∧ exec .mreqFall inhibited = .next inhibited := ⟨rfl, rfl, rfl, rfl, rfl⟩
/-- MotionIsConserved. -/
theorem test_witness_motion : (∀ i ∈ [Instr.mouseReport 0 100 0x9C, .mreqFall, .mouseReport 0 1 1], i.isInput = true ∧ i ≠ .reset) ∧
    runInstrs [.mouseReport 0 100 0x9C, .mreqFall, .mouseReport 0 1 1] State.reset =
      .next { mouseAt 1 1 false false with outputs := [.mouseTx 0 100 0x9C, .act] } := ⟨by decide, rfl⟩
/-- TickCountsDown: Idle, one short of the countdown, and at it. -/
theorem test_witness_tick : State.reset.heldScanCode = 0 ∧ (armedAt 500).heldScanCode ≠ 0 ∧
    0 < (armedAt 500).countdownMs.toInt - (499 : Nat) ∧ (armedAt 500).countdownMs.toInt - (500 : Nat) ≤ 0 := by decide
/-- SyntheticMakeAtExpiry: ticks one short of the countdown, and the one that reaches it. -/
theorem test_witness_expiry : (armedAt 500).heldScanCode ≠ 0 ∧ (([250, 249].sum : Nat) : Int) < (armedAt 500).countdownMs.toInt ∧
    (armedAt 500).countdownMs.toInt ≤ ([250, 249].sum + 1 : Nat) := by decide
/-- SyntheticMakeEveryInterval. -/
theorem test_witness_interval : (armedAt 110).heldScanCode ≠ 0 ∧ (armedAt 110).repeatIntervalMs ≠ 0 ∧
    (armedAt 110).countdownMs = (armedAt 110).repeatIntervalMs.zeroExtend 32 ∧ (armedAt 110).transmitInhibited = false := by decide
/-- TimerMovesOnlyOnItsEvents, KeyByteOccasions: a tick that emits. -/
theorem test_witness_timer_event : Instr.isInput (.tick 1) = true ∧
    exec (.tick 1) (armedAt 1) = .next { armedAt 110 with outputs := [.kbdTx 0x1E, .act] } ∧
    OutputEvent.kbdTx 0x1E ∈ [OutputEvent.kbdTx 0x1E, .act] := ⟨rfl, rfl, by decide⟩
/-- NothingEmittedWhileInhibited: one step, and a run. -/
theorem test_witness_inhibited : inhibited.transmitInhibited = true ∧ exec .mreqFall inhibited = .next inhibited ∧
    (∀ i ∈ [Instr.mreqFall, .tick 7, .inhibitFall], i ≠ .inhibitRise ∧ i ≠ .reset) ∧
    runInstrs [.mreqFall, .tick 7, .inhibitFall] inhibited = .next inhibited := ⟨rfl, rfl, by decide, rfl⟩
/-- InhibitDropsOnlyOutput: a tick that expires under both gate values, which attempts nothing. -/
theorem test_witness_inhibit_drops : attemptsMouseTransmit (.tick 1) (armedAt 1) = false ∧
    exec (.tick 1) { armedAt 1 with transmitInhibited := true } = .next { armedAt 110 with transmitInhibited := true } ∧
    exec (.tick 1) { armedAt 1 with transmitInhibited := false } =
      .next { armedAt 110 with outputs := [.kbdTx 0x1E, .act] } := ⟨rfl, rfl, rfl⟩
/-- InhibitDropsOnlyOutput: an attempt, whose motion is kept while inhibited (V-C10, V-M13) and cleared otherwise (V-C11). -/
theorem test_witness_inhibit_attempt :
    exec (.ctrlByte 0x40) { mouseAt 5 0 false false with transmitInhibited := true } =
      .next { mouseAt 5 0 false false with transmitInhibited := true, mouseControlAsserted := true } ∧
    exec (.ctrlByte 0x40) { mouseAt 5 0 false false with transmitInhibited := false } =
      .next { State.reset with mouseControlAsserted := true, outputs := [.mouseTx 0x00 0x05 0x00, .act] } := ⟨rfl, rfl⟩
/-- The bytes that attempt from the reset state are the four of pattern `01000--0`; none does once the register is true. -/
theorem test_attempting_bytes : ((List.range 256).filter fun n => attemptsMouseTransmit (.ctrlByte (BitVec.ofNat 8 n)) State.reset) =
      [0x40, 0x42, 0x44, 0x46] ∧
    attemptsMouseTransmit (.ctrlByte 0x40) { State.reset with mouseControlAsserted := true } = false := by decide
/-- ControlFlagsGateNothing, OutputIsNeverRead, PortsOwnTheirRegisters: a request edge that sends. -/
theorem test_witness_request_edge : exec .mreqFall (mouseAt 1 0 false false) =
    .next { State.reset with outputs := [.mouseTx 0x00 0x01 0x00, .act] } := rfl
/-- LevelOutputsFollowRegisters: the first and the last byte of each command that moves the level outputs. -/
theorem test_witness_level_output_bytes : ∀ b ∈ ([0x80, 0xFF, 0x54, 0x57, 0x58, 0x5F, 0x40, 0x47] : List Byte),
    b &&& 0x80 = 0x80 ∨ b &&& 0xFC = 0x54 ∨ b &&& 0xF8 = 0x58 ∨ b &&& 0xF8 = 0x40 := by decide
/-- LevelOutputsFollowRegisters. -/
theorem test_witness_level_outputs : exec (.ledset 0x7F) State.reset = .next { State.reset with ledState := 0x7F } ∧
    { State.reset with ledState := 0x7F }.levelOutputs = ⟨0x7F, 0, false, false⟩ := ⟨rfl, rfl⟩
/-- StepKeepsInvariant, CountdownNeverLeavesRange: an Armed state at the smallest countdown, the largest legal tick. -/
theorem test_witness_invariant : State.Inv { armedAt 1 with inputs := [⟨.ctrlByte, [0x60]⟩] } ∧ (armedAt 1).heldScanCode ≠ 0 ∧
    (Instr.tick 0x7FFFFFFF).wf = true ∧ State.Inv (armedAt 1700) := by decide
theorem test_witness_invariant_step : step { armedAt 1 with inputs := [⟨.ctrlByte, [0x60]⟩] } =
    .next { armedAt 1 with repeatDelayMs := 200 } := rfl
/-- EveryRunKeepsInvariant. -/
theorem test_witness_run_keeps_invariant : Sys2Proof.core.run 2 (waiting [⟨.ctrlByte, [0x60]⟩, ⟨.ctrlByte, [0x7F]⟩]) =
    .next { State.reset with repeatDelayMs := 200, repeatIntervalMs := 1155 } := rfl

end Sys2Proof.Tests
end

section
/-! PROOFS. The statements of 00_scope.md about the step and the run (R3, R28, R47): StepRunsDecodedInstruction,
RunPerformsInputSequence and OutputIsNeverRead. First what the decoder answers, then that a transfer made by the encoder is
performed as its operation, then that no operation looks at the run's own two sequences. -/

namespace Sys2Proof

/-! ### What the input formats answer -/

theorem decodeNone_ok {i j : Instr} {bs : List Byte} (h : decodeNone i bs = .ok j) : bs = [] ∧ j = i := by
  unfold decodeNone at h
  split at h <;> cases h
  exact ⟨rfl, rfl⟩

theorem decodeKbd_ok {i : Instr} {bs : List Byte} (h : decodeKbd bs = .ok i) :
    ∃ m k0 k1 k2 k3 k4 k5, bs = [m, k0, k1, k2, k3, k4, k5] ∧ i = .kbdReport m k0 k1 k2 k3 k4 k5 := by
  unfold decodeKbd at h
  split at h <;> cases h
  exact ⟨_, _, _, _, _, _, _, rfl, rfl⟩

theorem decodeMouse_ok {i : Instr} {bs : List Byte} (h : decodeMouse bs = .ok i) :
    ∃ buttons x y, bs = [buttons, x, y] ∧ i = .mouseReport buttons x y := by
  unfold decodeMouse at h
  split at h <;> cases h
  exact ⟨_, _, _, rfl, rfl⟩

theorem decodeCtrlByte_ok {i : Instr} {bs : List Byte} (h : decodeCtrlByte bs = .ok i) :
    ∃ b, bs = [b] ∧ i = decodeCtrl b := by
  unfold decodeCtrlByte at h
  split at h <;> cases h
  exact ⟨_, rfl, rfl⟩

theorem decodeTime_ok {i : Instr} {bs : List Byte} (h : decodeTime bs = .ok i) :
    bs.length = 4 ∧ numberOfBytes bs < 2 ^ 31 ∧ i = .tick (numberOfBytes bs) := by
  unfold decodeTime at h
  split at h
  · cases h
  next hlen =>
    split at h <;> cases h
    next hlt => exact ⟨not_not.mp hlen, hlt, rfl⟩

/-- A control byte's command carries no operand that its format could refuse, and it is an input row. -/
theorem decodeCtrl_wf_isInput (b : Byte) : (decodeCtrl b).wf = true ∧ (decodeCtrl b).isInput = true := by
  rcases Machine.decodeCtrl_shapes b with
    ⟨_, _, h⟩ | ⟨_, h⟩ | ⟨_, _, h⟩ | ⟨_, h⟩ | ⟨_, h⟩ | ⟨_, h⟩ | ⟨_, h⟩ | ⟨_, h⟩ | ⟨_, h⟩
  all_goals
    rw [h]
    exact ⟨rfl, rfl⟩

/-- What the decoder answers on an input port is an input row with operands its format allows. -/
theorem decodeInput_wf_isInput {p : InPort} {bs : List Byte} {i : Instr} (h : decodeInput p bs = .ok i) :
    i.wf = true ∧ i.isInput = true := by
  cases p with
  | kbdReport =>
    obtain ⟨_, _, _, _, _, _, _, _, rfl⟩ := decodeKbd_ok h
    exact ⟨rfl, rfl⟩
  | mouseReport =>
    obtain ⟨_, _, _, _, rfl⟩ := decodeMouse_ok h
    exact ⟨rfl, rfl⟩
  | ctrlByte =>
    obtain ⟨b, _, rfl⟩ := decodeCtrlByte_ok h
    exact decodeCtrl_wf_isInput b
  | tick =>
    obtain ⟨_, hlt, rfl⟩ := decodeTime_ok h
    exact ⟨by simpa [Instr.wf, Instr.tickInRange, Instr.xOverflowExclusive, Instr.yOverflowExclusive] using hlt, rfl⟩
  | reset | inhibitFall | inhibitRise | mreqFall | mreqRise =>
    obtain ⟨_, rfl⟩ := decodeNone_ok h
    exact ⟨rfl, rfl⟩

/-! ### Encoding an input row and decoding it again -/

/-- The row that performs what a row performs and that the decoder can answer: CTRL_BYTE stands for the command its byte
selects (R150; log 8). -/
def Instr.resolved : Instr → Instr
  | .ctrlByte b => decodeCtrl b
  | i => i

theorem decodeCtrl_msctrl : ∀ (m : BitVec 1) (x : BitVec 2),
    decodeCtrl ((0b01000 : BitVec 5) ++ x ++ m) = .msctrl m x := by decide

theorem decodeCtrl_ledbrt : ∀ v : BitVec 2, decodeCtrl ((0b010101 : BitVec 6) ++ v) = .ledbrt v := by decide

theorem decodeCtrl_keyinh : ∀ (k : BitVec 1) (x : BitVec 2),
    decodeCtrl ((0b01011 : BitVec 5) ++ x ++ k) = .keyinh k x := by decide

theorem decodeCtrl_rptdly : ∀ d : BitVec 4, decodeCtrl ((0b0110 : BitVec 4) ++ d) = .rptdly d := by decide

theorem decodeCtrl_rptint : ∀ r : BitVec 4, decodeCtrl ((0b0111 : BitVec 4) ++ r) = .rptint r := by decide

theorem decodeCtrl_ledset : ∀ l : BitVec 7, decodeCtrl ((0b1 : BitVec 1) ++ l) = .ledset l := by decide

theorem decodeCtrl_ctrlNop00 : ∀ x : BitVec 6, decodeCtrl ((0b00 : BitVec 2) ++ x) = .ctrlNop00 x := by decide

theorem decodeCtrl_ctrlNop48 : ∀ x : BitVec 3, decodeCtrl ((0b01001 : BitVec 5) ++ x) = .ctrlNop48 x := by decide

theorem decodeCtrl_ctrlNop50 : ∀ x : BitVec 2, decodeCtrl ((0b010100 : BitVec 6) ++ x) = .ctrlNop50 x := by decide

theorem length_bytesOfNumber (n w : Nat) : (bytesOfNumber n w).length = n := by
  induction n with
  | zero => rfl
  | succ n ih => simp [bytesOfNumber, ih]

/-- Reading the `n` bytes of a number after bytes that wrote `a`. -/
theorem foldl_bytesOfNumber (n w a : Nat) :
    (bytesOfNumber n w).foldl (fun k b => k * 256 + b.toNat) a = a * 256 ^ n + w % 256 ^ n := by
  induction n generalizing a with
  | zero => simp [bytesOfNumber, Nat.mod_one]
  | succ n ih =>
    have hdiv : w >>> (8 * n) = w / 256 ^ n := by rw [Nat.shiftRight_eq_div_pow, Nat.pow_mul]
    have hmod : w % 256 ^ (n + 1) = w % 256 ^ n + 256 ^ n * (w / 256 ^ n % 256) := Nat.mod_pow_succ
    rw [bytesOfNumber, List.foldl_cons, ih, BitVec.toNat_ofNat, hdiv, hmod]
    ring

/-- The bytes of a number that fits in them write that number (R64; log 3). -/
theorem numberOfBytes_bytesOfNumber {n w : Nat} (h : w < 256 ^ n) : numberOfBytes (bytesOfNumber n w) = w := by
  rw [numberOfBytes, foldl_bytesOfNumber, Nat.mod_eq_of_lt h, Nat.zero_mul, Nat.zero_add]

theorem decodeTime_bytesOfNumber {e : Nat} (h : e < 2 ^ 31) : decodeTime (bytesOfNumber 4 e) = .ok (.tick e) := by
  have hnum : numberOfBytes (bytesOfNumber 4 e) = e := numberOfBytes_bytesOfNumber (by omega)
  rw [decodeTime, if_neg (not_not.mpr (length_bytesOfNumber 4 e)), hnum, if_pos h]

/-- Every well-formed input row has a transfer, and the decoder answers that row for it. -/
theorem decodeInput_encodeInput {i : Instr} (hwf : i.wf = true) (hin : i.isInput = true) :
    ∃ t, encodeInput i = some t ∧ decodeInput t.port t.payload = .ok i.resolved := by
  cases i with
  | msctrl m x => exact ⟨_, rfl, congrArg Except.ok (decodeCtrl_msctrl m x)⟩
  | ledbrt v => exact ⟨_, rfl, congrArg Except.ok (decodeCtrl_ledbrt v)⟩
  | keyinh k x => exact ⟨_, rfl, congrArg Except.ok (decodeCtrl_keyinh k x)⟩
  | rptdly d => exact ⟨_, rfl, congrArg Except.ok (decodeCtrl_rptdly d)⟩
  | rptint r => exact ⟨_, rfl, congrArg Except.ok (decodeCtrl_rptint r)⟩
  | ledset l => exact ⟨_, rfl, congrArg Except.ok (decodeCtrl_ledset l)⟩
  | ctrlNop00 x => exact ⟨_, rfl, congrArg Except.ok (decodeCtrl_ctrlNop00 x)⟩
  | ctrlNop48 x => exact ⟨_, rfl, congrArg Except.ok (decodeCtrl_ctrlNop48 x)⟩
  | ctrlNop50 x => exact ⟨_, rfl, congrArg Except.ok (decodeCtrl_ctrlNop50 x)⟩
  | tick e =>
    have hlt : e < 2 ^ 31 := by
      simpa [Instr.wf, Instr.tickInRange, Instr.xOverflowExclusive, Instr.yOverflowExclusive] using hwf
    exact ⟨_, rfl, decodeTime_bytesOfNumber hlt⟩
  | kbdTx brk scan => cases hin
  | mouseTx yon yop xon xop right left dx dy => cases hin
  | ctrlByte | reset | kbdReport | mouseReport | inhibitFall | inhibitRise | mreqFall | mreqRise => exact ⟨_, rfl, rfl⟩

end Sys2Proof

namespace Sys2Proof.Machine

/-- CTRL_BYTE leaves the state that the command its byte selects leaves (R150). -/
theorem applied_resolved (i : Instr) (s : State) : applied i.resolved s = applied i s := by
  cases i with
  | ctrlByte b =>
    rcases decodeCtrl_shapes b with
      ⟨_, _, h⟩ | ⟨_, h⟩ | ⟨_, _, h⟩ | ⟨_, h⟩ | ⟨_, h⟩ | ⟨_, h⟩ | ⟨_, h⟩ | ⟨_, h⟩ | ⟨_, h⟩
    all_goals simp only [Instr.resolved, applied, h]
  | _ => rfl

/-! ### The run's own two sequences (log 1, log 2) -/

/-- A state change that reads neither of the run's own two sequences: it keeps the input to come, appends to the output, and
what it appends and all else it does are the same whatever the two hold. -/
def IgnoresRun (f : State → State) : Prop :=
  ∀ s, ∃ es, ∀ ins outs,
    f { s with inputs := ins, outputs := outs } = { f s with inputs := ins, outputs := outs ++ es }

theorem sendKeyByte_ignoresRun (scan : ScanCode) (isMake : Bool) : IgnoresRun (sendKeyByte scan isMake) := fun s =>
  ⟨gated s.transmitInhibited [.kbdTx (keyByte scan isMake), .act], fun ins outs => by simp only [sendKeyByte_eq]⟩

theorem kbdReport_ignoresRun (cfg : Config) (mod : Byte) (keys : KeySlots) : IgnoresRun (kbdReport cfg mod keys) :=
  fun s => ⟨gated s.transmitInhibited (keyEventOutput (reportEvents cfg s.prevMod mod s.prevKeys keys)),
    fun ins outs => by simp only [kbdReport_eq, keyEvents_eq]⟩

theorem sendMousePacket_ignoresRun (b0 b1 b2 : Byte) : IgnoresRun (sendMousePacket b0 b1 b2) := by
  intro s
  by_cases hg : s.transmitInhibited = true
  · exact ⟨[], fun ins outs => by simp [sendMousePacket_eq, hg]⟩
  · exact ⟨.mouseTx b0 b1 b2 :: if packetIsZero b0 b1 b2 then [] else [.act],
      fun ins outs => by simp [sendMousePacket_eq, hg]⟩

/-- The packet of an attempt is computed from the accumulator and the latches alone (R132). -/
theorem mouseTransmitAttempt_ignoresRun : IgnoresRun mouseTransmitAttempt := fun s =>
  sendMousePacket_ignoresRun (mouseByte0 s.btnLeft s.btnRight s.accDx s.accDy) (trunc8 s.accDx) (trunc8 s.accDy) s

theorem setMouseControl_ignoresRun (asserted : Bool) : IgnoresRun (setMouseControl asserted) := by
  intro s
  by_cases ha : s.mouseControlAsserted = false ∧ asserted = true
  · obtain ⟨es, hes⟩ := mouseTransmitAttempt_ignoresRun { s with mouseControlAsserted := true }
    exact ⟨es, fun ins outs => by simpa only [setMouseControl_eq, if_pos ha] using hes ins outs⟩
  · exact ⟨[], fun ins outs => by simp only [setMouseControl_eq, if_neg ha, List.append_nil]⟩

theorem tick_ignoresRun (e : Nat) : IgnoresRun (tick e) := by
  intro s
  by_cases h0 : s.heldScanCode = 0
  · exact ⟨[], fun ins outs => by simp [tick, h0]⟩
  by_cases hc : s.countdownMs.toInt - e ≤ 0
  · exact ⟨gated s.transmitInhibited [.kbdTx (keyByte (scanOfByte s.heldScanCode) true), .act],
      fun ins outs => by simp only [tick, if_neg h0, if_pos hc, sendKeyByte_eq]⟩
  · exact ⟨[], fun ins outs => by simp only [tick, if_neg h0, if_neg hc, List.append_nil]⟩

/-- A change of registers alone emits nothing. -/
theorem ignoresRun_of_silent {f : State → State}
    (h : ∀ s ins outs, f { s with inputs := ins, outputs := outs } = { f s with inputs := ins, outputs := outs }) :
    IgnoresRun f := fun s => ⟨[], fun ins outs => by rw [h, List.append_nil]⟩

/-- The rows other than CTRL_BYTE, one by one. -/
theorem applied_ignoresRun_of_ne_ctrlByte {i : Instr} (hi : ∀ b, i ≠ .ctrlByte b) : IgnoresRun (applied i) := by
  cases i with
  | msctrl m x => exact setMouseControl_ignoresRun (activeLow m)
  | kbdReport m k0 k1 k2 k3 k4 k5 => exact kbdReport_ignoresRun Config.installed m ⟨k0, k1, k2, k3, k4, k5⟩
  | tick e => exact tick_ignoresRun e
  | mreqFall => exact mouseTransmitAttempt_ignoresRun
  | kbdTx brk scan => exact sendKeyByte_ignoresRun scan (!brk)
  | mouseTx yon yop xon xop right left dx dy =>
    exact sendMousePacket_ignoresRun (packetByte0Layout yon yop xon xop right left) dx dy
  | ctrlByte b => exact absurd rfl (hi b)
  | ledbrt | keyinh | rptdly | rptint | ledset | ctrlNop00 | ctrlNop48 | ctrlNop50 | reset | mouseReport | inhibitFall
  | inhibitRise | mreqRise => exact ignoresRun_of_silent fun _ _ _ => rfl

/-- No byte selects CTRL_BYTE, so the case of the other rows covers every resolved row. -/
theorem resolved_ne_ctrlByte (i : Instr) (b : Byte) : i.resolved ≠ .ctrlByte b := by
  cases i with
  | ctrlByte c =>
    rcases decodeCtrl_shapes c with
      ⟨_, _, h⟩ | ⟨_, h⟩ | ⟨_, _, h⟩ | ⟨_, h⟩ | ⟨_, h⟩ | ⟨_, h⟩ | ⟨_, h⟩ | ⟨_, h⟩ | ⟨_, h⟩
    all_goals simp [Instr.resolved, h]
  | _ => simp [Instr.resolved]

/-- No operation reads the input to come or the output so far (R3). -/
theorem applied_ignoresRun (i : Instr) : IgnoresRun (applied i) := by
  have h := applied_ignoresRun_of_ne_ctrlByte (resolved_ne_ctrlByte i)
  rwa [show applied i.resolved = applied i from funext (applied_resolved i)] at h

theorem applied_inputs (i : Instr) (s : State) : (applied i s).inputs = s.inputs := by
  obtain ⟨es, hes⟩ := applied_ignoresRun i s
  have hself := congrArg State.inputs (hes s.inputs s.outputs)
  exact hself

/-- What an operation emits, whatever was emitted before. -/
theorem applied_with_outputs (i : Instr) (s : State) :
    ∃ es, (applied i s).outputs = s.outputs ++ es ∧
      ∀ before, applied i { s with outputs := before } = { applied i s with outputs := before ++ es } := by
  obtain ⟨es, hes⟩ := applied_ignoresRun i s
  have hin : (applied i s).inputs = s.inputs := applied_inputs i s
  refine ⟨es, congrArg State.outputs (hes s.inputs s.outputs), fun before => ?_⟩
  calc applied i { s with outputs := before }
      = { applied i s with inputs := s.inputs, outputs := before ++ es } := hes s.inputs before
    _ = { applied i s with outputs := before ++ es } := by rw [← hin]

/-- An operation carries the input to come along and does the same whatever it is. -/
theorem applied_with_inputs (i : Instr) (s : State) (ins : List Input) :
    applied i { s with inputs := ins } = { applied i s with inputs := ins } := by
  obtain ⟨es, hes⟩ := applied_ignoresRun i s
  have hout : (applied i s).outputs = s.outputs ++ es := congrArg State.outputs (hes s.inputs s.outputs)
  calc applied i { s with inputs := ins }
      = { applied i s with inputs := ins, outputs := s.outputs ++ es } := hes ins s.outputs
    _ = { applied i s with inputs := ins } := by rw [← hout]

/-! ### The step and the run -/

/-- A step whose next transfer decodes to `i` performs `i` with the transfer consumed (R47). -/
theorem step_eq_exec {s : State} {t : Input} {rest : List Input} {i : Instr} (hs : s.inputs = t :: rest)
    (hi : decodeInput t.port t.payload = .ok i) : step s = exec i { s with inputs := rest } := by
  simp only [step, fetch_cons hs, hi]

/-- A step on the encoding of an input row performs that row. -/
theorem step_encoded {i : Instr} {t : Input} (s : State) (rest : List Input) (ht : encodeInput i = some t)
    (hwf : i.wf = true) (hin : i.isInput = true) :
    step { s with inputs := t :: rest } = .next { applied i s with inputs := rest } := by
  obtain ⟨t', ht', hdec⟩ := decodeInput_encodeInput hwf hin
  obtain rfl : t' = t := Option.some.inj (ht'.symm.trans ht)
  rw [step_eq_exec rfl hdec, exec_eq, applied_resolved]
  exact congrArg _ (applied_with_inputs i s rest)

/-- A run's first step, for any machine. -/
theorem run_succ_of_step {M : Host.Core} {s s' : M.State} (k : Nat) (h : M.step s = .next s') :
    M.run (k + 1) s = M.run k s' := by
  rw [Host.Core.run, h]

/-- The state that a sequence of operations leaves. -/
def appliedAll (is : List Instr) (s : State) : State := is.foldl (fun s i => applied i s) s

/-- A sequence of operations never stops (R210). -/
theorem runInstrs_eq (is : List Instr) (s : State) : runInstrs is s = .next (appliedAll is s) := by
  induction is generalizing s with
  | nil => rfl
  | cons i is ih => rw [runInstrs, exec_eq]; exact ih (applied i s)

/-- The machine's run over encoded operations consumes them all and leaves what the operations leave (R3). -/
theorem core_run_encoded (is : List Instr) (s : State) (h : ∀ i ∈ is, i.wf = true ∧ i.isInput = true) :
    core.run is.length { s with inputs := is.filterMap encodeInput } = .next (appliedAll is { s with inputs := [] }) := by
  induction is generalizing s with
  | nil => rfl
  | cons i is ih =>
    obtain ⟨⟨hwf, hin⟩, his⟩ := List.forall_mem_cons.mp h
    obtain ⟨t, ht, -⟩ := decodeInput_encodeInput hwf hin
    rw [List.filterMap_cons_some ht, List.length_cons]
    calc core.run (is.length + 1) { s with inputs := t :: is.filterMap encodeInput }
        = core.run is.length { applied i s with inputs := is.filterMap encodeInput } :=
          run_succ_of_step (M := core) is.length (step_encoded s _ ht hwf hin)
      _ = .next (appliedAll is { applied i s with inputs := [] }) := ih (applied i s) his
      _ = .next (appliedAll is (applied i { s with inputs := [] })) := by rw [applied_with_inputs i s []]

/-- Settles O5: the fetch hands the transfer to the decoder, and the decoder answers only well-formed input rows. -/
theorem stepRunsDecodedInstruction : Obligations.StepRunsDecodedInstruction := fun _ _ _ _ hs hi =>
  ⟨step_eq_exec hs hi, decodeInput_wf_isInput hi⟩

/-- Settles O9: by induction on the sequence, in `core_run_encoded` for the machine and `runInstrs_eq` for the operations. -/
theorem runPerformsInputSequence : Obligations.RunPerformsInputSequence := fun is s h =>
  ⟨appliedAll is { s with inputs := [] }, runInstrs_eq is _, core_run_encoded is s h⟩

/-- Settles O53: what each operation appends is found by cases on the operation, in `applied_ignoresRun`. -/
theorem outputIsNeverRead : Obligations.OutputIsNeverRead := by
  intro i s t h
  obtain rfl := exec_next h
  obtain ⟨es, hout, hes⟩ := applied_with_outputs i s
  exact ⟨es, hout, fun before => by rw [exec_eq, hes before]⟩

end Sys2Proof.Machine
end

section
/-! PROOFS. The statements of 10_state.md: the invariant of R30 (ResetMeetsInvariant, StepKeepsInvariant,
EveryRunKeepsInvariant, CountdownNeverLeavesRange), the level outputs of R29 (LevelOutputsFollowRegisters) and the finite
accumulator of R15 (FiniteAccumulatorAgrees). First which registers each shared operation can touch and what a step and a
run can do, then one part for each of the three rules. -/

namespace Sys2Proof.Machine

/-! ### What the mouse operations can touch -/

/-- A packet touches the accumulator and the output, and nothing else (R132, R136). -/
theorem sendMousePacket_frame (b0 b1 b2 : Byte) (s : State) :
    ∃ dx dy outs, sendMousePacket b0 b1 b2 s = { s with accDx := dx, accDy := dy, outputs := outs } := by
  rw [sendMousePacket_eq]
  split
  · exact ⟨s.accDx, s.accDy, s.outputs, rfl⟩
  · exact ⟨0, 0, _, rfl⟩

theorem mouseTransmitAttempt_frame (s : State) :
    ∃ dx dy outs, mouseTransmitAttempt s = { s with accDx := dx, accDy := dy, outputs := outs } :=
  sendMousePacket_frame _ _ _ s

/-- MSCTRL writes its register; beside it an attempt can touch the accumulator and the output (R152). -/
theorem setMouseControl_frame (asserted : Bool) (s : State) :
    ∃ dx dy outs, setMouseControl asserted s =
      { s with mouseControlAsserted := asserted, accDx := dx, accDy := dy, outputs := outs } := by
  rw [setMouseControl_eq]
  split
  next htrans =>
    obtain ⟨-, rfl⟩ := htrans
    exact mouseTransmitAttempt_frame { s with mouseControlAsserted := true }
  next => exact ⟨s.accDx, s.accDy, s.outputs, rfl⟩

/-! ### What a step and a run can do -/

/-- The two ways a step answers: it holds the state, or it performs an operation with the transfer consumed (R47; log 1). -/
theorem step_next_cases {s t : State} (h : step s = .next t) :
    t = s ∨ ∃ (rest : List Input) (i : Instr), t = applied i { s with inputs := rest } := by
  cases hin : s.inputs with
  | nil =>
    simp only [step, fetch_nil hin, Host.Outcome.next.injEq] at h
    exact .inl h.symm
  | cons tr rest =>
    cases hdec : decodeInput tr.port tr.payload with
    | ok i =>
      rw [step_eq_exec hin hdec] at h
      exact .inr ⟨rest, i, exec_next h⟩
    | error e =>
      simp only [step, fetch_cons hin, hdec, reduceCtorEq] at h

/-- What every step keeps, every run keeps, for any machine. -/
theorem run_keeps {M : Host.Core} {P : M.State → Prop} (hstep : ∀ s t, P s → M.step s = .next t → P t) (k : Nat)
    {s t : M.State} (hs : P s) (h : M.run k s = .next t) : P t := by
  induction k generalizing s with
  | zero =>
    cases h
    exact hs
  | succ k ih =>
    rw [Host.Core.run] at h
    split at h
    next s' hs' => exact ih (hstep s s' hs hs') h
    all_goals cases h

/-- A claim about the state an operation leaves need not be proved again for the undecoded control byte (R150). -/
theorem applied_of_ne_ctrlByte {P : State → Prop} {s : State} (h : ∀ i, (∀ b, i ≠ .ctrlByte b) → P (applied i s))
    (i : Instr) : P (applied i s) :=
  applied_resolved i s ▸ h i.resolved (resolved_ne_ctrlByte i)

/-! ### The invariant (R30) -/

/-- The sixteen delays of RPTDLY (R155). -/
theorem delayMs_mem : ∀ d : BitVec 4, (delayMs d).toNat ∈ repeatDelays := by decide

/-- The sixteen intervals of RPTINT (R156). -/
theorem intervalMs_mem : ∀ r : BitVec 4, (intervalMs r).toNat ∈ repeatIntervals := by decide

theorem repeatDelays_bounds : ∀ n ∈ repeatDelays, 1 ≤ n ∧ n ≤ 1700 := by decide

theorem repeatIntervals_bounds : ∀ n ∈ repeatIntervals, 1 ≤ n ∧ n ≤ 1700 := by decide

/-- A repeat time is loaded into the countdown as the number it is (R172, R174). -/
theorem msWord_bounds {ms : BitVec 16} (h : 1 ≤ ms.toNat ∧ ms.toNat ≤ 1700) :
    1 ≤ (msWord ms).toInt ∧ (msWord ms).toInt ≤ 1700 := by
  rw [msWord_toInt]
  omega

/-- Arming keeps the invariant: the delay it loads is one of the sixteen (R172). -/
theorem arm_inv (scan : ScanCode) {s : State} (h : s.Inv) : (s.arm scan).Inv := by
  obtain ⟨-, hdelay, hinterval, -⟩ := h
  exact ⟨scanByte_le scan, hdelay, hinterval, fun _ => msWord_bounds (repeatDelays_bounds _ hdelay)⟩

/-- Clearing keeps the invariant: an Idle timer's countdown is not bounded (R175, R18). -/
theorem disarm_inv {s : State} (h : s.Inv) : s.disarm.Inv := by
  obtain ⟨-, hdelay, hinterval, -⟩ := h
  exact ⟨Nat.zero_le _, hdelay, hinterval, fun hheld => absurd rfl hheld⟩

theorem repeatTrack_inv (e : KeyEvent) {s : State} (h : s.Inv) : (repeatTrack e s).Inv := by
  rw [repeatTrack_eq]
  split
  next =>
    split
    next => exact h
    next => exact arm_inv e.scan h
  next =>
    split
    next => exact disarm_inv h
    next => exact h

theorem sendKeyByte_inv (scan : ScanCode) (isMake : Bool) {s : State} (h : s.Inv) : (sendKeyByte scan isMake s).Inv := by
  rw [sendKeyByte_eq]
  exact h

theorem keyEvents_inv (es : List KeyEvent) {s : State} (h : s.Inv) : (keyEvents es s).Inv := by
  induction es generalizing s with
  | nil => exact h
  | cons e es ih => exact ih (sendKeyByte_inv e.scan e.isMake (repeatTrack_inv e h))

theorem kbdReport_inv (cfg : Config) (mod : Byte) (keys : KeySlots) {s : State} (h : s.Inv) :
    (kbdReport cfg mod keys s).Inv := by
  rw [kbdReport_eq]
  exact keyEvents_inv (reportEvents cfg s.prevMod mod s.prevKeys keys) h

/-- A tick keeps the invariant: at expiry it loads one of the sixteen intervals, and before it the countdown only falls and
stays positive (R174). -/
theorem tick_inv (e : Nat) {s : State} (h : s.Inv) : (tick e s).Inv := by
  obtain ⟨hheld, hdelay, hinterval, hcount⟩ := h
  rcases tick_cases e s with ⟨-, ht⟩ | ⟨-, -, ht⟩ | ⟨harmed, hpos, ht⟩ <;> rw [ht]
  · exact ⟨hheld, hdelay, hinterval, hcount⟩
  · exact ⟨hheld, hdelay, hinterval, fun _ => msWord_bounds (repeatIntervals_bounds _ hinterval)⟩
  · obtain ⟨-, hle⟩ := hcount harmed
    refine ⟨hheld, hdelay, hinterval, fun _ => ?_⟩
    rw [countdown_sub_toInt (by omega)]
    omega

theorem sendMousePacket_inv (b0 b1 b2 : Byte) {s : State} (h : s.Inv) : (sendMousePacket b0 b1 b2 s).Inv := by
  obtain ⟨dx, dy, outs, heq⟩ := sendMousePacket_frame b0 b1 b2 s
  rw [heq]
  exact h

theorem setMouseControl_inv (asserted : Bool) {s : State} (h : s.Inv) : (setMouseControl asserted s).Inv := by
  obtain ⟨dx, dy, outs, heq⟩ := setMouseControl_frame asserted s
  rw [heq]
  exact h

/-- The registers after reset meet the invariant, whatever the run's own two sequences hold (R240). -/
theorem resetRegisters_inv (s : State) : (resetRegisters s).Inv :=
  show State.reset.Inv by decide

/-- Every operation keeps the invariant, with any operand. -/
theorem applied_inv (i : Instr) {s : State} (h : s.Inv) : (applied i s).Inv := by
  refine applied_of_ne_ctrlByte (fun i hi => ?_) i
  cases i with
  | ctrlByte b => exact absurd rfl (hi b)
  | msctrl m x => exact setMouseControl_inv (activeLow m) h
  | rptdly d =>
    obtain ⟨hheld, -, hinterval, hcount⟩ := h
    exact ⟨hheld, delayMs_mem d, hinterval, hcount⟩
  | rptint r =>
    obtain ⟨hheld, hdelay, -, hcount⟩ := h
    exact ⟨hheld, hdelay, intervalMs_mem r, hcount⟩
  | reset => exact resetRegisters_inv s
  | kbdReport m k0 k1 k2 k3 k4 k5 => exact kbdReport_inv Config.installed m ⟨k0, k1, k2, k3, k4, k5⟩ h
  | tick e => exact tick_inv e h
  | mreqFall => exact sendMousePacket_inv _ _ _ h
  | kbdTx brk scan => exact sendKeyByte_inv scan (!brk) h
  | mouseTx yon yop xon xop right left dx dy => exact sendMousePacket_inv _ dx dy h
  | ledbrt | keyinh | ledset | ctrlNop00 | ctrlNop48 | ctrlNop50 | mouseReport | inhibitFall | inhibitRise | mreqRise =>
    exact h

theorem step_inv {s t : State} (h : s.Inv) (hstep : step s = .next t) : t.Inv := by
  rcases step_next_cases hstep with rfl | ⟨rest, i, rfl⟩
  · exact h
  · exact applied_inv i (s := { s with inputs := rest }) h

/-- R173's range, as a check on the row. -/
theorem tick_wf_iff (e : Nat) : (Instr.tick e).wf = true ↔ e < 2 ^ 31 := by
  simp [Instr.wf, Instr.tickInRange, Instr.xOverflowExclusive, Instr.yOverflowExclusive]

/-- Settles O57: an answering step holds the state or performs one operation, and `applied_inv` goes through the
operations one by one. -/
theorem stepKeepsInvariant : Obligations.StepKeepsInvariant := fun _ _ => step_inv

/-- Settles O56: by evaluation of the reset state. -/
theorem resetMeetsInvariant : Obligations.ResetMeetsInvariant := resetRegisters_inv State.reset

/-- Settles O58: by induction on the number of steps, from the reset state with the input that waits. -/
theorem everyRunKeepsInvariant : Obligations.EveryRunKeepsInvariant := fun _ n _ =>
  run_keeps (M := core) (P := State.Inv) (fun _ _ => step_inv) n resetMeetsInvariant

/-- Settles O59: while Armed the countdown is from 1 to 1700, and a legal TICK takes at most `2^31 - 1` from it. -/
theorem countdownNeverLeavesRange : Obligations.CountdownNeverLeavesRange := by
  intro s e hinv harmed hwf
  obtain ⟨-, -, -, hcount⟩ := hinv
  obtain ⟨hge, hle⟩ := hcount harmed
  have he : e < 2 ^ 31 := (tick_wf_iff e).mp hwf
  omega

/-! ### The level outputs (R29) -/

theorem sendKeyByte_levelOutputs (scan : ScanCode) (isMake : Bool) (s : State) :
    (sendKeyByte scan isMake s).levelOutputs = s.levelOutputs := by
  rw [sendKeyByte_eq]; rfl

theorem kbdReport_levelOutputs (cfg : Config) (mod : Byte) (keys : KeySlots) (s : State) :
    (kbdReport cfg mod keys s).levelOutputs = s.levelOutputs := by
  rw [kbdReport_eq, keyEvents_eq]; rfl

theorem tick_levelOutputs (e : Nat) (s : State) : (tick e s).levelOutputs = s.levelOutputs := by
  rcases tick_cases e s with ⟨-, ht⟩ | ⟨-, -, ht⟩ | ⟨-, -, ht⟩
  all_goals exact (congrArg State.levelOutputs ht).trans rfl

theorem sendMousePacket_levelOutputs (b0 b1 b2 : Byte) (s : State) :
    (sendMousePacket b0 b1 b2 s).levelOutputs = s.levelOutputs := by
  obtain ⟨dx, dy, outs, heq⟩ := sendMousePacket_frame b0 b1 b2 s
  rw [heq]; rfl

theorem setMouseControl_levelOutputs (asserted : Bool) (s : State) :
    (setMouseControl asserted s).levelOutputs = { s.levelOutputs with mouseControlAsserted := asserted } := by
  obtain ⟨dx, dy, outs, heq⟩ := setMouseControl_frame asserted s
  rw [heq]; rfl

/-- The byte's pattern is one of the four commands that write a level output: LEDSET, LEDBRT, KEYINH, MSCTRL (R65). -/
def selectsLevelCommand (b : Byte) : Prop :=
  b &&& 0x80 = 0x80 ∨ b &&& 0xFC = 0x54 ∨ b &&& 0xF8 = 0x58 ∨ b &&& 0xF8 = 0x40

/-- A control byte outside the four patterns is RPTDLY, RPTINT or discarded, and moves no level output (R150). -/
theorem applied_ctrlByte_levelOutputs {b : Byte} (h : ¬ selectsLevelCommand b) (s : State) :
    (applied (.ctrlByte b) s).levelOutputs = s.levelOutputs := by
  obtain ⟨hledset, hledbrt, hkeyinh, hmsctrl⟩ : ¬ b &&& 0x80 = 0x80 ∧ ¬ b &&& 0xFC = 0x54 ∧ ¬ b &&& 0xF8 = 0x58 ∧
      ¬ b &&& 0xF8 = 0x40 := by simpa only [selectsLevelCommand, not_or] using h
  have hexec := execCtrlByte_eq b s
  rw [execCtrlByte, if_neg hmsctrl, if_neg hledbrt, if_neg hkeyinh, if_neg hledset] at hexec
  by_cases hrptdly : b &&& 0xF0 = 0x60
  · rw [if_pos hrptdly] at hexec
    rw [← Host.Outcome.next.inj hexec]; rfl
  by_cases hrptint : b &&& 0xF0 = 0x70
  · rw [if_neg hrptdly, if_pos hrptint] at hexec
    rw [← Host.Outcome.next.inj hexec]; rfl
  · rw [if_neg hrptdly, if_neg hrptint] at hexec
    rw [← Host.Outcome.next.inj hexec]

/-- Settles O54: by cases on the operation, each by what its shared operation leaves of the level outputs. -/
theorem levelOutputsFollowRegisters : Obligations.LevelOutputsFollowRegisters := by
  refine ⟨fun i s t h => ?_, fun s => ⟨fun l => ⟨_, rfl, rfl⟩, fun v => ⟨_, rfl, rfl⟩, fun k x => ⟨_, rfl, rfl⟩,
    fun m x => ⟨_, rfl, setMouseControl_levelOutputs (activeLow m) s⟩, fun d => ⟨_, rfl, rfl⟩, fun r => ⟨_, rfl, rfl⟩⟩⟩
  obtain rfl := exec_next h
  cases i with
  | ledset l => exact .inr (.inr (.inl ⟨l, rfl⟩))
  | ledbrt v => exact .inr (.inr (.inr (.inl ⟨v, rfl⟩)))
  | keyinh k x => exact .inr (.inr (.inr (.inr (.inl ⟨k, x, rfl⟩))))
  | msctrl m x => exact .inr (.inr (.inr (.inr (.inr (.inl ⟨m, x, rfl⟩)))))
  | reset => exact .inr (.inl rfl)
  | ctrlByte b =>
    by_cases hb : selectsLevelCommand b
    · exact .inr (.inr (.inr (.inr (.inr (.inr ⟨b, rfl, hb⟩)))))
    · exact .inl (applied_ctrlByte_levelOutputs hb s)
  | kbdReport m k0 k1 k2 k3 k4 k5 =>
    exact .inl (kbdReport_levelOutputs Config.installed m ⟨k0, k1, k2, k3, k4, k5⟩ s)
  | tick e => exact .inl (tick_levelOutputs e s)
  | mreqFall => exact .inl (sendMousePacket_levelOutputs _ _ _ s)
  | kbdTx brk scan => exact .inl (sendKeyByte_levelOutputs scan (!brk) s)
  | mouseTx yon yop xon xop right left dx dy => exact .inl (sendMousePacket_levelOutputs _ dx dy s)
  | rptdly | rptint | ctrlNop00 | ctrlNop48 | ctrlNop50 | mouseReport | inhibitFall | inhibitRise | mreqRise =>
    exact .inl rfl

/-! ### A finite accumulator (R15) -/

/-- A `w`-bit signed number is read back from its word. -/
theorem bmod_of_accFits {w : Nat} {v : Int} (hw : 0 < w) (h : accFits w v) : v.bmod (2 ^ w) = v := by
  obtain ⟨n, rfl⟩ : ∃ n, w = n + 1 := ⟨w - 1, by omega⟩
  obtain ⟨hlow, hhigh⟩ := h
  rw [Nat.add_sub_cancel] at hlow hhigh
  have hpow : ((2 ^ (n + 1) : Nat) : Int) = 2 * 2 ^ n := by push_cast; ring
  apply Int.bmod_eq_of_le <;> omega

/-- Adding a motion byte in `w` bits is the integer sum wherever that fits, also where the byte itself is wider than `w`. -/
theorem add_signExtend_toInt {w : Nat} (acc : BitVec w) (x : Byte) (hw : 0 < w) (h : accFits w (acc.toInt + x.toInt)) :
    (acc + x.signExtend w).toInt = acc.toInt + x.toInt := by
  rw [BitVec.toInt_add, BitVec.signExtend, BitVec.toInt_ofInt, Int.add_bmod_bmod, bmod_of_accFits hw h]

/-- Settles O31: the two axes are the same addition, `add_signExtend_toInt`. -/
theorem finiteAccumulatorAgrees : Obligations.FiniteAccumulatorAgrees := by
  intro w accX accY b x y s hw hx hy hfitX hfitY
  rw [← hx] at hfitX
  rw [← hy] at hfitY
  refine ⟨mouseReport b x y s, rfl, ?_, ?_⟩
  · rw [add_signExtend_toInt accX x hw hfitX, hx, mouseReport_accDx, motion]
  · rw [add_signExtend_toInt accY y hw hfitY, hy, mouseReport_accDy, motion]

end Sys2Proof.Machine
end

section
/-! PROOFS. The statements of 20_memory.md: the refusals of R45 (RefusesOnlyMalformedTransfers) and the read-and-clear of the
motion accumulator of R49 (MotionIsConserved). The second is a relation between two states that each operation establishes and
that composes along a sequence. -/

namespace Sys2Proof

/-! ### Which transfers the decoder answers (R45) -/

theorem decodeInput_ok_length {p : InPort} {bs : List Byte} {i : Instr} (h : decodeInput p bs = .ok i) :
    bs.length = p.payloadBytes := by
  cases p with
  | kbdReport =>
    obtain ⟨_, _, _, _, _, _, _, rfl, -⟩ := decodeKbd_ok h
    rfl
  | mouseReport =>
    obtain ⟨_, _, _, rfl, -⟩ := decodeMouse_ok h
    rfl
  | ctrlByte =>
    obtain ⟨_, rfl, -⟩ := decodeCtrlByte_ok h
    rfl
  | tick =>
    obtain ⟨hlen, -, -⟩ := decodeTime_ok h
    exact hlen
  | reset | inhibitFall | inhibitRise | mreqFall | mreqRise =>
    obtain ⟨rfl, -⟩ := decodeNone_ok h
    rfl

/-- A payload of its port's length that is no TICK out of range is an operation. -/
theorem decodeInput_ok_of_length {p : InPort} {bs : List Byte} (hlen : bs.length = p.payloadBytes)
    (htick : p = .tick → numberOfBytes bs < 2 ^ 31) : ∃ i, decodeInput p bs = .ok i := by
  cases p with
  | kbdReport =>
    match bs, hlen with
    | [_, _, _, _, _, _, _], _ => exact ⟨_, rfl⟩
  | mouseReport =>
    match bs, hlen with
    | [_, _, _], _ => exact ⟨_, rfl⟩
  | ctrlByte =>
    match bs, hlen with
    | [_], _ => exact ⟨_, rfl⟩
  | tick =>
    have hfour : bs.length = 4 := hlen
    exact ⟨_, by rw [decodeInput, decodeTime, if_neg (not_not.mpr hfour), if_pos (htick rfl)]⟩
  | reset | inhibitFall | inhibitRise | mreqFall | mreqRise =>
    match bs, hlen with
    | [], _ => exact ⟨_, rfl⟩

theorem decodeInput_ok_iff (p : InPort) (bs : List Byte) :
    (∃ i, decodeInput p bs = .ok i) ↔ bs.length = p.payloadBytes ∧ (p = .tick → numberOfBytes bs < 2 ^ 31) := by
  refine ⟨fun ⟨i, hi⟩ => ⟨decodeInput_ok_length hi, ?_⟩, fun ⟨hlen, htick⟩ => decodeInput_ok_of_length hlen htick⟩
  rintro rfl
  obtain ⟨-, hlt, -⟩ := decodeTime_ok hi
  exact hlt

end Sys2Proof

namespace Sys2Proof.Machine

/-- A step refuses exactly what the decoder refuses, and for the decoder's reason: no operation refuses (R210; log 9). -/
theorem step_refused_iff {s : State} {t : Input} {rest : List Input} (hs : s.inputs = t :: rest) (r : Refusal) :
    step s = .refused r ↔ ∃ e, decodeInput t.port t.payload = .error e ∧ r = .malformedTransfer t.port e := by
  cases hdec : decodeInput t.port t.payload with
  | ok i =>
    rw [step_eq_exec hs hdec, exec_eq]
    simp
  | error e => simp [step, fetch_cons hs, hdec, eq_comm]

theorem step_refuses_iff {s : State} {t : Input} {rest : List Input} (hs : s.inputs = t :: rest) :
    (∃ r, step s = .refused r) ↔ ¬ ∃ i, decodeInput t.port t.payload = .ok i := by
  simp only [step_refused_iff hs]
  cases decodeInput t.port t.payload <;> simp

/-- Settles O7: a step refuses what the decoder does not answer, and `decodeInput_ok_iff` says which transfers it answers. -/
theorem refusesOnlyMalformedTransfers : Obligations.RefusesOnlyMalformedTransfers := by
  intro s t rest hs
  refine ⟨?_, fun r hr => ?_⟩
  · rw [step_refuses_iff hs, decodeInput_ok_iff, not_and_or, Classical.not_imp, not_lt]
  · obtain ⟨e, -, hr⟩ := (step_refused_iff hs r).mp hr
    exact ⟨e, hr⟩

/-! ### What the motion sums are of longer sequences -/

theorem packetMotionX_append (es fs : List OutputEvent) :
    packetMotionX (es ++ fs) = packetMotionX es + packetMotionX fs := by
  simp only [packetMotionX, List.map_append, List.sum_append]

theorem packetMotionY_append (es fs : List OutputEvent) :
    packetMotionY (es ++ fs) = packetMotionY es + packetMotionY fs := by
  simp only [packetMotionY, List.map_append, List.sum_append]

theorem reportedMotionX_cons (i : Instr) (is : List Instr) :
    reportedMotionX (i :: is) = reportedMotionX [i] + reportedMotionX is := by
  simp only [reportedMotionX, List.map_cons, List.map_nil, List.sum_cons, List.sum_nil, add_zero]

theorem reportedMotionY_cons (i : Instr) (is : List Instr) :
    reportedMotionY (i :: is) = reportedMotionY [i] + reportedMotionY is := by
  simp only [reportedMotionY, List.map_cons, List.map_nil, List.sum_cons, List.sum_nil, add_zero]

/-- Key bytes and their activity triggers carry no motion (R116), sent or dropped. -/
theorem packetMotion_keyEventOutput (inhibited : Bool) (es : List KeyEvent) :
    packetMotionX (gated inhibited (keyEventOutput es)) = 0 ∧ packetMotionY (gated inhibited (keyEventOutput es)) = 0 := by
  cases inhibited with
  | true => exact ⟨rfl, rfl⟩
  | false =>
    induction es with
    | nil => exact ⟨rfl, rfl⟩
    | cons e es ih =>
      obtain ⟨ihx, ihy⟩ := ih
      have happend : gated false (keyEventOutput (e :: es)) =
          [.kbdTx (keyByte e.scan e.isMake), .act] ++ gated false (keyEventOutput es) := rfl
      rw [happend, packetMotionX_append, packetMotionY_append, ihx, ihy]
      exact ⟨rfl, rfl⟩

/-- A packet's X motion is its byte 1, whether or not an activity trigger follows it (R134). -/
theorem packetMotionX_packet (b0 b1 b2 : Byte) (zero : Bool) :
    packetMotionX (.mouseTx b0 b1 b2 :: if zero then [] else [.act]) = b1.toNat := by
  cases zero <;> simp [packetMotionX]

/-- Its Y motion is its byte 2. -/
theorem packetMotionY_packet (b0 b1 b2 : Byte) (zero : Bool) :
    packetMotionY (.mouseTx b0 b1 b2 :: if zero then [] else [.act]) = b2.toNat := by
  cases zero <;> simp [packetMotionY]

/-! ### Conservation of motion (R49) -/

/-- From `s` to `t` motion `x`, `y` is delivered, and modulo 256 it is all either emitted since or still accumulated. -/
def ConservesMotion (x y : Int) (s t : State) : Prop :=
  ∃ es, t.outputs = s.outputs ++ es ∧
    (packetMotionX es + t.accDx) % 256 = (s.accDx + x) % 256 ∧
    (packetMotionY es + t.accDy) % 256 = (s.accDy + y) % 256

theorem ConservesMotion.trans {x y x' y' : Int} {s t u : State} (h : ConservesMotion x y s t)
    (h' : ConservesMotion x' y' t u) : ConservesMotion (x + x') (y + y') s u := by
  obtain ⟨es, hout, hx, hy⟩ := h
  obtain ⟨es', hout', hx', hy'⟩ := h'
  refine ⟨es ++ es', by rw [hout', hout, List.append_assoc], ?_, ?_⟩
  · rw [packetMotionX_append]; omega
  · rw [packetMotionY_append]; omega

/-- Nothing delivered and no packet sent: at most key bytes are emitted and the accumulator stays. -/
theorem conservesMotion_of_keyOutput {s t : State} (inhibited : Bool) (es : List KeyEvent)
    (hout : t.outputs = s.outputs ++ gated inhibited (keyEventOutput es)) (hx : t.accDx = s.accDx)
    (hy : t.accDy = s.accDy) : ConservesMotion 0 0 s t := by
  obtain ⟨hpx, hpy⟩ := packetMotion_keyEventOutput inhibited es
  exact ⟨_, hout, by rw [hpx, hx, zero_add, add_zero], by rw [hpy, hy, zero_add, add_zero]⟩

/-- A change of other registers alone conserves motion. -/
theorem conservesMotion_of_silent {s t : State} (hout : t.outputs = s.outputs) (hx : t.accDx = s.accDx)
    (hy : t.accDy = s.accDy) : ConservesMotion 0 0 s t :=
  conservesMotion_of_keyOutput true [] (hout.trans (List.append_nil _).symm) hx hy

theorem kbdReport_conservesMotion (cfg : Config) (mod : Byte) (keys : KeySlots) (s : State) :
    ConservesMotion 0 0 s (kbdReport cfg mod keys s) := by
  rw [kbdReport_eq, keyEvents_eq]
  exact conservesMotion_of_keyOutput s.transmitInhibited _ rfl rfl rfl

/-- The synthetic make of an expiring tick is a key byte (R174). -/
theorem tick_conservesMotion (e : Nat) (s : State) : ConservesMotion 0 0 s (tick e s) := by
  rcases tick_cases e s with ⟨-, ht⟩ | ⟨-, -, ht⟩ | ⟨-, -, ht⟩ <;> rw [ht]
  · exact conservesMotion_of_silent rfl rfl rfl
  · exact conservesMotion_of_keyOutput s.transmitInhibited [⟨scanOfByte s.heldScanCode, true, false⟩] rfl rfl rfl
  · exact conservesMotion_of_silent rfl rfl rfl

/-- A report adds its motion to the accumulator exactly (R131). -/
theorem mouseReport_conservesMotion (buttons x y : Byte) (s : State) :
    ConservesMotion x.toInt y.toInt s (mouseReport buttons x y s) :=
  ⟨[], (List.append_nil _).symm, congrArg (· % 256) (zero_add _), congrArg (· % 256) (zero_add _)⟩

/-- An attempt keeps the motion while inhibited (D14), and otherwise moves it from the accumulator to the packet, whose bytes
hold it modulo 256 (R135, R136). -/
theorem mouseTransmitAttempt_conservesMotion (s : State) : ConservesMotion 0 0 s (mouseTransmitAttempt s) := by
  rw [mouseTransmitAttempt_eq]
  split
  next => exact conservesMotion_of_silent rfl rfl rfl
  next =>
    refine ⟨_, rfl, ?_, ?_⟩
    · rw [packetMotionX_packet, trunc8_toNat, add_zero, add_zero, Int.emod_emod]
    · rw [packetMotionY_packet, trunc8_toNat, add_zero, add_zero, Int.emod_emod]

theorem setMouseControl_conservesMotion (asserted : Bool) (s : State) :
    ConservesMotion 0 0 s (setMouseControl asserted s) := by
  rw [setMouseControl_eq]
  split
  next => exact mouseTransmitAttempt_conservesMotion { s with mouseControlAsserted := true }
  next => exact conservesMotion_of_silent rfl rfl rfl

/-- Of the commands a control byte can select, MSCTRL alone is more than a write of its register (R150, R159). -/
theorem ctrlByte_conservesMotion (b : Byte) (s : State) : ConservesMotion 0 0 s (applied (.ctrlByte b) s) := by
  rw [← applied_resolved, Instr.resolved]
  rcases decodeCtrl_shapes b with
    ⟨m, _, h⟩ | ⟨_, h⟩ | ⟨_, _, h⟩ | ⟨_, h⟩ | ⟨_, h⟩ | ⟨_, h⟩ | ⟨_, h⟩ | ⟨_, h⟩ | ⟨_, h⟩ <;> rw [h]
  · exact setMouseControl_conservesMotion (activeLow m) s
  all_goals exact conservesMotion_of_silent rfl rfl rfl

/-- The one-operation case: every input operation but RESET conserves motion. -/
theorem applied_conservesMotion {i : Instr} (hin : i.isInput = true) (hreset : i ≠ .reset) (s : State) :
    ConservesMotion (reportedMotionX [i]) (reportedMotionY [i]) s (applied i s) := by
  cases i with
  | msctrl m x => exact setMouseControl_conservesMotion (activeLow m) s
  | kbdReport m k0 k1 k2 k3 k4 k5 => exact kbdReport_conservesMotion Config.installed m ⟨k0, k1, k2, k3, k4, k5⟩ s
  | mouseReport b x y =>
    have hx : reportedMotionX [.mouseReport b x y] = x.toInt := Int.add_zero _
    have hy : reportedMotionY [.mouseReport b x y] = y.toInt := Int.add_zero _
    rw [hx, hy]
    exact mouseReport_conservesMotion b x y s
  | ctrlByte b => exact ctrlByte_conservesMotion b s
  | tick e => exact tick_conservesMotion e s
  | mreqFall => exact mouseTransmitAttempt_conservesMotion s
  | reset => exact absurd rfl hreset
  | kbdTx brk scan => cases hin
  | mouseTx yon yop xon xop right left dx dy => cases hin
  | ledbrt | keyinh | rptdly | rptint | ledset | ctrlNop00 | ctrlNop48 | ctrlNop50 | inhibitFall | inhibitRise | mreqRise =>
    exact conservesMotion_of_silent rfl rfl rfl

theorem appliedAll_conservesMotion (is : List Instr) (s : State) (his : ∀ i ∈ is, i.isInput = true ∧ i ≠ .reset) :
    ConservesMotion (reportedMotionX is) (reportedMotionY is) s (appliedAll is s) := by
  induction is generalizing s with
  | nil => exact conservesMotion_of_silent rfl rfl rfl
  | cons i is ih =>
    obtain ⟨⟨hin, hreset⟩, hrest⟩ := List.forall_mem_cons.mp his
    rw [reportedMotionX_cons, reportedMotionY_cons]
    exact (applied_conservesMotion hin hreset s).trans (ih (applied i s) hrest)

/-- Settles O38: by induction on the sequence, in `appliedAll_conservesMotion`, each operation by cases in
`applied_conservesMotion`. -/
theorem motionIsConserved : Obligations.MotionIsConserved := by
  intro is s t his hrun
  rw [runInstrs_eq] at hrun
  obtain rfl := Host.Outcome.next.inj hrun
  exact appliedAll_conservesMotion is s his

end Sys2Proof.Machine
end

section
/-! PROOFS. The statements of 30_encoding.md: the round trip of decoder and encoder in both directions (DecodeOfEncode,
EncodeOfDecode), sample words (DecodesSampleWords), the control opcode map (ControlOpcodeMap) and the packet that the block
computes (PacketReadsBack). First each format that packs several operands into one byte: the control byte, TICK's number, the
key byte and byte 0 of the mouse packet. -/

namespace Sys2Proof

/-! ### The control opcode map (R65, R66, R67) -/

/-- Every mask of R65 and R66 keeps the bits from some position `k` up, so the bytes it matches are an aligned block. -/
theorem and_highMask_eq_iff {w : Nat} (k : Nat) {p : BitVec w} (hp : p.toNat % 2 ^ k = 0) (b : BitVec w) :
    b &&& (BitVec.allOnes w <<< k) = p ↔ p.toNat ≤ b.toNat ∧ b.toNat ≤ p.toNat + (2 ^ k - 1) := by
  have hpos : 0 < 2 ^ k := Nat.two_pow_pos k
  have hle : b.toNat / 2 ^ k * 2 ^ k ≤ b.toNat := Nat.div_mul_le_self _ _
  have hnat : (b >>> k <<< k).toNat = b.toNat / 2 ^ k * 2 ^ k := by
    rw [BitVec.toNat_shiftLeft, BitVec.toNat_ushiftRight, Nat.shiftLeft_eq, Nat.shiftRight_eq_div_pow,
      Nat.mod_eq_of_lt (hle.trans_lt b.isLt)]
  have hdiv : p.toNat = p.toNat / 2 ^ k * 2 ^ k := (Nat.div_mul_cancel (Nat.dvd_of_mod_eq_zero hp)).symm
  rw [← BitVec.shiftLeft_ushiftRight, ← BitVec.toNat_inj, hnat]
  constructor
  · intro h
    have := Nat.lt_div_mul_add (a := b.toNat) hpos
    omega
  · rintro ⟨hlo, hhi⟩
    have : b.toNat / 2 ^ k = p.toNat / 2 ^ k := by
      refine Nat.div_eq_of_lt_le (hdiv ▸ hlo) ?_
      rw [Nat.add_mul, ← hdiv]
      omega
    rw [this, ← hdiv]

theorem masked_msctrl (b : Byte) : b &&& 0xF8 = 0x40 ↔ 0x40 ≤ b.toNat ∧ b.toNat ≤ 0x47 := and_highMask_eq_iff 3 rfl b

theorem masked_ledbrt (b : Byte) : b &&& 0xFC = 0x54 ↔ 0x54 ≤ b.toNat ∧ b.toNat ≤ 0x57 := and_highMask_eq_iff 2 rfl b

theorem masked_keyinh (b : Byte) : b &&& 0xF8 = 0x58 ↔ 0x58 ≤ b.toNat ∧ b.toNat ≤ 0x5F := and_highMask_eq_iff 3 rfl b

theorem masked_rptdly (b : Byte) : b &&& 0xF0 = 0x60 ↔ 0x60 ≤ b.toNat ∧ b.toNat ≤ 0x6F := and_highMask_eq_iff 4 rfl b

theorem masked_rptint (b : Byte) : b &&& 0xF0 = 0x70 ↔ 0x70 ≤ b.toNat ∧ b.toNat ≤ 0x7F := and_highMask_eq_iff 4 rfl b

theorem masked_ledset (b : Byte) : b &&& 0x80 = 0x80 ↔ 0x80 ≤ b.toNat :=
  (and_highMask_eq_iff 7 rfl b).trans (and_iff_left (Nat.le_of_lt_succ b.isLt))

theorem masked_ctrlNop00 (b : Byte) : b &&& 0xC0 = 0x00 ↔ b.toNat ≤ 0x3F :=
  (and_highMask_eq_iff 6 rfl b).trans (and_iff_right (Nat.zero_le _))

theorem masked_ctrlNop48 (b : Byte) : b &&& 0xF8 = 0x48 ↔ 0x48 ≤ b.toNat ∧ b.toNat ≤ 0x4F := and_highMask_eq_iff 3 rfl b

theorem masked_ctrlNop50 (b : Byte) : b &&& 0xFC = 0x50 ↔ 0x50 ≤ b.toNat ∧ b.toNat ≤ 0x53 := and_highMask_eq_iff 2 rfl b

/-- The decoder's chain of masks as a chain of byte ranges. -/
theorem decodeCtrl_eq_ranges (b : Byte) :
    decodeCtrl b =
      (if 0x40 ≤ b.toNat ∧ b.toNat ≤ 0x47 then .msctrl (b.extractLsb' 0 1) (b.extractLsb' 1 2)
       else if 0x54 ≤ b.toNat ∧ b.toNat ≤ 0x57 then .ledbrt (b.extractLsb' 0 2)
       else if 0x58 ≤ b.toNat ∧ b.toNat ≤ 0x5F then .keyinh (b.extractLsb' 0 1) (b.extractLsb' 1 2)
       else if 0x60 ≤ b.toNat ∧ b.toNat ≤ 0x6F then .rptdly (b.extractLsb' 0 4)
       else if 0x70 ≤ b.toNat ∧ b.toNat ≤ 0x7F then .rptint (b.extractLsb' 0 4)
       else if 0x80 ≤ b.toNat then .ledset (b.extractLsb' 0 7)
       else if b.toNat ≤ 0x3F then .ctrlNop00 (b.extractLsb' 0 6)
       else if 0x48 ≤ b.toNat ∧ b.toNat ≤ 0x4F then .ctrlNop48 (b.extractLsb' 0 3)
       else .ctrlNop50 (b.extractLsb' 0 2)) := by
  simp only [decodeCtrl, masked_msctrl, masked_ledbrt, masked_keyinh, masked_rptdly, masked_rptint, masked_ledset,
    masked_ctrlNop00, masked_ctrlNop48]

/-- The nine ranges leave no byte out. -/
theorem exists_ctrlRow_selects (b : Byte) : ∃ r ∈ ctrlRows, r.selects b = true := by
  have hb : b.toNat < 256 := b.isLt
  simp only [ctrlRows, CtrlRow.selects, List.exists_mem_cons_iff, beq_iff_eq, masked_msctrl, masked_ledbrt, masked_keyinh,
    masked_rptdly, masked_rptint, masked_ledset, masked_ctrlNop00, masked_ctrlNop48, masked_ctrlNop50]
  omega

/-- Any two rows of the map differ in a bit that both of their masks look at. -/
theorem ctrlRows_pairwise_distinct :
    ctrlRows.Pairwise fun r r' => r.pattern &&& r'.mask ≠ r'.pattern &&& r.mask := by decide

theorem not_selects_of_distinct {r r' : CtrlRow} {b : Byte} (h : r.pattern &&& r'.mask ≠ r'.pattern &&& r.mask)
    (hr : r.selects b = true) : ¬ r'.selects b = true := by
  intro hr'
  simp only [CtrlRow.selects, beq_iff_eq] at hr hr'
  refine h ?_
  rw [← hr, ← hr', BitVec.and_assoc, BitVec.and_assoc, BitVec.and_comm r.mask]

/-- A list of which no two elements satisfy `p` and some element does keeps exactly one under the filter. -/
theorem length_filter_eq_one {α : Type} {l : List α} {p : α → Bool} (hex : ∃ x ∈ l, p x = true)
    (hne : l.Pairwise fun x y => p x = true → ¬ p y = true) : (l.filter p).length = 1 := by
  obtain ⟨x, hx, hpx⟩ := hex
  have hfil : (l.filter p).Pairwise fun x y => p x = true → ¬ p y = true := hne.filter p
  have hall : ∀ y ∈ l.filter p, p y = true := fun y hy => (List.mem_filter.mp hy).2
  have hmem : x ∈ l.filter p := List.mem_filter.mpr ⟨hx, hpx⟩
  match hl : l.filter p with
  | [] => simp [hl] at hmem
  | [_] => rfl
  | y :: z :: _ =>
    rw [hl] at hfil hall
    exact absurd (hall z (by simp)) (List.rel_of_pairwise_cons hfil (by simp) (hall y (by simp)))

theorem length_selecting_ctrlRows (b : Byte) : (ctrlRows.filter fun r => r.selects b).length = 1 :=
  length_filter_eq_one (exists_ctrlRow_selects b) (ctrlRows_pairwise_distinct.imp not_selects_of_distinct)

/-! ### A control byte is the encoding of its command -/

/-- The bits from position `k` up, from the aligned block that the word lies in. -/
theorem extractLsb'_of_range {w k m : Nat} {b : BitVec w} (p : BitVec m) (hlo : p.toNat * 2 ^ k ≤ b.toNat)
    (hhi : b.toNat < (p.toNat + 1) * 2 ^ k) : b.extractLsb' k m = p := by
  rw [← BitVec.toNat_inj, BitVec.extractLsb'_toNat, Nat.shiftRight_eq_div_pow, Nat.div_eq_of_lt_le hlo hhi,
    Nat.mod_eq_of_lt p.isLt]

/-- A pattern's fixed bits followed by the operand slice are the word, for a word of the pattern's block. -/
theorem fixed_append_slice {m k : Nat} (p : BitVec m) {b : BitVec (m + k)} (hlo : p.toNat * 2 ^ k ≤ b.toNat)
    (hhi : b.toNat < (p.toNat + 1) * 2 ^ k) : p ++ b.extractLsb' 0 k = b := by
  rw [← extractLsb'_of_range p hlo hhi, BitVec.extractLsb'_append_extractLsb'_eq_extractLsb' (Nat.zero_add k).symm,
    BitVec.extractLsb'_eq_self]

/-- The same for the two patterns whose operand is cut into the ignored bits 2:1 and bit 0 (R152, R154). -/
theorem fixed_append_two_slices (p : BitVec 5) {b : Byte} (hlo : p.toNat * 8 ≤ b.toNat)
    (hhi : b.toNat < (p.toNat + 1) * 8) : p ++ b.extractLsb' 1 2 ++ b.extractLsb' 0 1 = b := by
  rw [← extractLsb'_of_range (k := 3) p hlo hhi]
  simp (disch := rfl) only [BitVec.extractLsb'_append_extractLsb'_eq_extractLsb', BitVec.extractLsb'_eq_self]

/-- Every byte is the encoding of the command it selects: its range fixes the pattern's bits, the slices are the rest. -/
theorem encode_decodeCtrl (b : Byte) : encode (decodeCtrl b) = (.input .ctrlByte, [b]) := by
  have hb : b.toNat < 256 := b.isLt
  have onPort {c : Byte} (h : c = b) : (Port.input .ctrlByte, [c]) = (.input .ctrlByte, [b]) := by rw [h]
  rw [decodeCtrl_eq_ranges]
  split_ifs with hms hled hinh hrdly hrint hset h00 h48
  · exact onPort (fixed_append_two_slices 0b01000 hms.1 (Nat.lt_succ_of_le hms.2))
  · exact onPort (fixed_append_slice (0b010101 : BitVec 6) hled.1 (Nat.lt_succ_of_le hled.2))
  · exact onPort (fixed_append_two_slices 0b01011 hinh.1 (Nat.lt_succ_of_le hinh.2))
  · exact onPort (fixed_append_slice (0b0110 : BitVec 4) hrdly.1 (Nat.lt_succ_of_le hrdly.2))
  · exact onPort (fixed_append_slice (0b0111 : BitVec 4) hrint.1 (Nat.lt_succ_of_le hrint.2))
  · exact onPort (fixed_append_slice (0b1 : BitVec 1) hset hb)
  · exact onPort (fixed_append_slice (0b00 : BitVec 2) (Nat.zero_le _) (Nat.lt_succ_of_le h00))
  · exact onPort (fixed_append_slice (0b01001 : BitVec 5) h48.1 (Nat.lt_succ_of_le h48.2))
  · have h50 : 0x50 ≤ b.toNat ∧ b.toNat < 0x54 := by omega
    exact onPort (fixed_append_slice (0b010100 : BitVec 6) h50.1 h50.2)

/-! ### TICK's number (R64, R173; log 3) -/

/-- What bytes add to the number written before them stands in the places below it. -/
theorem foldl_bytes_div (bs : List Byte) (a : Nat) :
    bs.foldl (fun n b => n * 256 + b.toNat) a / 256 ^ bs.length = a := by
  induction bs generalizing a with
  | nil => simp
  | cons b bs ih =>
    have hb : b.toNat < 256 := b.isLt
    rw [List.foldl_cons, List.length_cons, Nat.pow_succ, ← Nat.div_div_eq_div_mul, ih]
    omega

/-- Writing in as many bytes the number that bytes wrote after `a` gives those bytes. -/
theorem bytesOfNumber_foldl (bs : List Byte) (a : Nat) :
    bytesOfNumber bs.length (bs.foldl (fun n b => n * 256 + b.toNat) a) = bs := by
  induction bs generalizing a with
  | nil => rfl
  | cons b bs ih =>
    have hhead : BitVec.ofNat 8 (a * 256 + b.toNat) = b := by
      rw [← BitVec.toNat_inj, BitVec.toNat_ofNat, Nat.mul_add_mod_self_right, Nat.mod_eq_of_lt b.isLt]
    rw [List.foldl_cons, List.length_cons, bytesOfNumber, ih, Nat.shiftRight_eq_div_pow, Nat.pow_mul]
    exact congrArg (· :: bs) ((congrArg (BitVec.ofNat 8) (foldl_bytes_div bs _)).trans hhead)

theorem bytesOfNumber_numberOfBytes (bs : List Byte) : bytesOfNumber bs.length (numberOfBytes bs) = bs :=
  bytesOfNumber_foldl bs 0

/-! ### The key byte (R68) -/

theorem getLsbD_keyByteLayout (brk : Bool) (scan : ScanCode) : (keyByteLayout brk scan).getLsbD 7 = brk := by
  simp only [keyByteLayout, BitVec.getLsbD_append, BitVec.getLsbD_ofBool]
  simp

theorem extractLsb'_keyByteLayout (brk : Bool) (scan : ScanCode) : (keyByteLayout brk scan).extractLsb' 0 7 = scan :=
  BitVec.extractLsb'_append_eq_right

theorem decodeKeyByte_layout (brk : Bool) (scan : ScanCode) :
    decodeKeyByte [keyByteLayout brk scan] = .ok (.kbdTx brk scan) := by
  rw [decodeKeyByte, getLsbD_keyByteLayout, extractLsb'_keyByteLayout]

theorem ofBool_getLsbD {w : Nat} (b : BitVec w) (k : Nat) : BitVec.ofBool (b.getLsbD k) = b.extractLsb' k 1 := by
  ext i hi
  obtain rfl : i = 0 := by omega
  simp

theorem keyByteLayout_of_byte (b : Byte) : keyByteLayout (b.getLsbD 7) (b.extractLsb' 0 7) = b := by
  rw [keyByteLayout, ofBool_getLsbD, BitVec.extractLsb'_append_extractLsb'_eq_extractLsb' (Nat.zero_add 7).symm,
    BitVec.extractLsb'_eq_self]

theorem decodeKeyByte_ok {i : Instr} {bs : List Byte} (h : decodeKeyByte bs = .ok i) :
    ∃ b, bs = [b] ∧ i = .kbdTx (b.getLsbD 7) (b.extractLsb' 0 7) := by
  unfold decodeKeyByte at h
  split at h <;> cases h
  exact ⟨_, rfl, rfl⟩

/-! ### The mouse packet (R69) -/

theorem wf_mouseTx_iff {yon yop xon xop right left : Bool} {dx dy : Byte} :
    (Instr.mouseTx yon yop xon xop right left dx dy).wf = true ↔ (yon && yop) = false ∧ (xon && xop) = false := by
  simp only [Instr.wf, Instr.tickInRange, Instr.xOverflowExclusive, Instr.yOverflowExclusive, Bool.true_and,
    Bool.and_eq_true (!_), Bool.not_eq_true']
  exact and_comm

/-- Where each bit of byte 0 stands. -/
theorem getLsbD_packetByte0Layout (yon yop xon xop right left : Bool) (i : Nat) :
    (packetByte0Layout yon yop xon xop right left).getLsbD i =
      [left, right, false, false, xop, xon, yop, yon].getD i false := by
  simp only [packetByte0Layout, BitVec.getLsbD_append, BitVec.getLsbD_ofBool]
  match i with
  | 0 | 1 | 2 | 3 | 4 | 5 | 6 | 7 => simp
  | n + 8 => simp

theorem reserved_packetByte0Layout (yon yop xon xop right left : Bool) :
    (packetByte0Layout yon yop xon xop right left).extractLsb' 2 2 = 0 := by
  ext i hi
  rw [BitVec.getElem_extractLsb', getLsbD_packetByte0Layout]
  match i, hi with
  | 0, _ | 1, _ => simp

theorem decodePacket_layout {yon yop xon xop right left : Bool} {dx dy : Byte}
    (hwf : (Instr.mouseTx yon yop xon xop right left dx dy).wf = true) :
    decodePacket [packetByte0Layout yon yop xon xop right left, dx, dy] =
      .ok (.mouseTx yon yop xon xop right left dx dy) := by
  obtain ⟨hy, hx⟩ := wf_mouseTx_iff.mp hwf
  rw [decodePacket, if_neg (not_not.mpr (reserved_packetByte0Layout ..))]
  simp only [getLsbD_packetByte0Layout]
  exact if_neg (by simp [hy, hx])

theorem packetByte0Layout_of_byte {b : Byte} (hres : b.extractLsb' 2 2 = 0) :
    packetByte0Layout (b.getLsbD 7) (b.getLsbD 6) (b.getLsbD 5) (b.getLsbD 4) (b.getLsbD 1) (b.getLsbD 0) = b := by
  rw [packetByte0Layout, ← hres]
  simp (disch := rfl) only [ofBool_getLsbD, BitVec.extractLsb'_append_extractLsb'_eq_extractLsb', BitVec.extractLsb'_eq_self]

theorem decodePacket_ok {i : Instr} {bs : List Byte} (h : decodePacket bs = .ok i) :
    ∃ b0 b1 b2, bs = [b0, b1, b2] ∧ b0.extractLsb' 2 2 = 0 ∧ i.wf = true ∧
      i = .mouseTx (b0.getLsbD 7) (b0.getLsbD 6) (b0.getLsbD 5) (b0.getLsbD 4) (b0.getLsbD 1) (b0.getLsbD 0) b1 b2 := by
  unfold decodePacket at h
  split at h
  next b0 b1 b2 =>
    split at h
    · cases h
    next hres =>
      split at h <;> cases h
      next hflags =>
        exact ⟨b0, b1, b2, rfl, not_not.mp hres, wf_mouseTx_iff.mpr (by simpa using hflags), rfl⟩
  next => cases h

/-! ### The round trip, both ways -/

theorem encode_of_encodeInput {i : Instr} {t : Input} (h : encodeInput i = some t) :
    encode i = (.input t.port, t.payload) := by
  unfold encodeInput at h
  split at h <;> cases h
  assumption

/-- A well-formed row decodes from its encoding, CTRL_BYTE to the command its byte selects (R150). -/
theorem decode_encode {i : Instr} (hwf : i.wf = true) : decode (encode i).1 (encode i).2 = .ok i.resolved := by
  cases hin : i.isInput with
  | true =>
    obtain ⟨t, ht, hdec⟩ := decodeInput_encodeInput hwf hin
    rw [encode_of_encodeInput ht]
    exact hdec
  | false =>
    cases i with
    | kbdTx brk scan => exact decodeKeyByte_layout brk scan
    | mouseTx yon yop xon xop right left dx dy => exact decodePacket_layout hwf
    | _ => cases hin

theorem encode_of_decodeInput {p : InPort} {bs : List Byte} {i : Instr} (h : decodeInput p bs = .ok i) :
    encode i = (.input p, bs) := by
  cases p with
  | kbdReport =>
    obtain ⟨_, _, _, _, _, _, _, rfl, rfl⟩ := decodeKbd_ok h
    rfl
  | mouseReport =>
    obtain ⟨_, _, _, rfl, rfl⟩ := decodeMouse_ok h
    rfl
  | ctrlByte =>
    obtain ⟨b, rfl, rfl⟩ := decodeCtrlByte_ok h
    exact encode_decodeCtrl b
  | tick =>
    obtain ⟨hlen, -, rfl⟩ := decodeTime_ok h
    rw [encode, ← hlen, bytesOfNumber_numberOfBytes]
  | reset | inhibitFall | inhibitRise | mreqFall | mreqRise =>
    obtain ⟨rfl, rfl⟩ := decodeNone_ok h
    rfl

theorem encode_wf_of_decodeOutput {p : OutPort} {bs : List Byte} {i : Instr} (h : decodeOutput p bs = .ok i) :
    encode i = (.output p, bs) ∧ i.wf = true := by
  cases p with
  | kbdTx =>
    obtain ⟨b, rfl, rfl⟩ := decodeKeyByte_ok h
    exact ⟨by rw [encode, keyByteLayout_of_byte], rfl⟩
  | mouseTx =>
    obtain ⟨b0, b1, b2, rfl, hres, hwf, rfl⟩ := decodePacket_ok h
    exact ⟨by rw [encode, packetByte0Layout_of_byte hres], hwf⟩

/-- Settles O3: by cases on the row, in `decodeInput_encodeInput` for the input rows and in the lemmas on the two layouts for
the output rows. -/
theorem decodeOfEncode : Obligations.DecodeOfEncode := by
  intro i hwf
  rw [decode_encode hwf]
  cases i <;> rfl

/-- Settles O4: by cases on the port, each format's bytes put together again from the operands read out of them. -/
theorem encodeOfDecode : Obligations.EncodeOfDecode := by
  intro p bs i h
  cases p with
  | input p => exact ⟨encode_of_decodeInput h, (decodeInput_wf_isInput h).1⟩
  | output p => exact encode_wf_of_decodeOutput h

/-! ### Sample words, the opcode map and the computed packet -/

/-- Settles O1: closed facts about words written out, by evaluating the decoder on each. -/
theorem decodesSampleWords : Obligations.DecodesSampleWords := by
  unfold Obligations.DecodesSampleWords
  decide

/-- Settles O2: each mask matches a range, the ranges leave no byte out, and no two of them share one. -/
theorem controlOpcodeMap : Obligations.ControlOpcodeMap := fun b =>
  ⟨decodeCtrl_eq_ranges b, length_selecting_ctrlRows b⟩

/-- An axis never has both overflow flags (R133): its value is not below -128 and above 127 at once. -/
theorem overflow_exclusive (v : Int) : (decide (v < -128) && decide (v > 127)) = false := by
  rw [Bool.and_eq_false_iff, decide_eq_false_iff_not, decide_eq_false_iff_not]
  omega

/-- Settles O35: the computed flags exclude each other, so the packet's layout reads back. -/
theorem packetReadsBack : Obligations.PacketReadsBack := by
  intro left right dx dy b1 b2
  have hwf : (Instr.mouseTx (decide (dy < -128)) (decide (dy > 127)) (decide (dx < -128)) (decide (dx > 127))
      right left b1 b2).wf = true := wf_mouseTx_iff.mpr ⟨overflow_exclusive dy, overflow_exclusive dx⟩
  exact ⟨decodePacket_layout hwf, hwf⟩

end Sys2Proof
end

section
/-! PROOFS. The statements of 40_keyboard_differencer.md: what a keyboard report stores (KeyboardReportStoresSnapshot), emits
(KeyboardReportOutput) and leaves in the Repeat Timer (KeyboardReportMovesTimer), and the Differencer's two limits, a report
presented again and the first one after RESET (UnchangedReportIsSilent, DifferencerIsMinimal, FirstReportBreaksNothing). First
which events a report has, as lists and by membership, then what events emit and what they do to the timer. -/

namespace Sys2Proof.Machine

/-! ### The events of one report (R91, R92, R93) -/

theorem bit_xor_iff {w : Nat} (a b : BitVec w) (i : Nat) : bit (a ^^^ b) i = true ↔ a.getLsbD i ≠ b.getLsbD i := by
  rw [bit, BitVec.getLsbD_xor, bne_iff_ne]

/-- The modifier pass bit by bit: every bit has an entry in `MOD_SCAN`, so every changed bit has an event (R91). -/
theorem modifierEvents_eq (cfg : Config) (old new : Byte) :
    modifierEvents cfg old new = (List.finRange 8).filterMap fun i : Fin 8 =>
      if old.getLsbD i ≠ new.getLsbD i then some ⟨cfg.modScan i, new.getLsbD i, true⟩ else none := by
  rw [modifierEvents, ← List.map_coe_finRange_eq_range, List.filterMap_map]
  refine List.filterMap_congr fun i _ => ?_
  simp only [Function.comp_apply, bit_xor_iff, memRead_modtab, Option.map_some, scanOfByte_scanByte]
  rfl

theorem leaving_eq (xs ys : KeySlots) :
    leaving xs ys = xs.toList.filter fun u => decide (3 < u.toNat ∧ u ∉ ys.toList) := by
  simp only [leaving, reportable, List.contains_eq_mem, Bool.decide_and, decide_not]

theorem mem_leaving {xs ys : KeySlots} {u : Byte} :
    u ∈ leaving xs ys ↔ u ∈ xs.toList ∧ 3 < u.toNat ∧ u ∉ ys.toList := by
  rw [leaving_eq, List.mem_filter, decide_eq_true_iff]

/-- Any function's values at the codes that leave, slot by slot. -/
theorem filterMap_leaving {α : Type} (f : Byte → Option α) (xs ys : KeySlots) :
    (leaving xs ys).filterMap f =
      xs.toList.filterMap fun u => if 3 < u.toNat ∧ u ∉ ys.toList then f u else none := by
  simp only [leaving_eq, List.filterMap_filter, decide_eq_true_eq]

/-- No code is absent from the snapshot it stands in. -/
theorem leaving_self (xs : KeySlots) : leaving xs xs = [] :=
  List.eq_nil_iff_forall_not_mem.mpr fun _ hu =>
    have ⟨hin, _, hout⟩ := mem_leaving.mp hu
    hout hin

theorem mem_modifierEvents {cfg : Config} {old new : Byte} {e : KeyEvent} :
    e ∈ modifierEvents cfg old new ↔
      ∃ i : Fin 8, old.getLsbD i ≠ new.getLsbD i ∧ e = ⟨cfg.modScan i, new.getLsbD i, true⟩ := by
  simp [modifierEvents_eq, eq_comm]

theorem mem_codeEvents {cfg : Config} {isMake : Bool} {us : List Byte} {e : KeyEvent} :
    e ∈ codeEvents cfg isMake us ↔ ∃ u ∈ us, ∃ scan, keyLookup cfg u = some scan ∧ e = ⟨scan, isMake, false⟩ := by
  simp [codeEvents, eq_comm]

/-- The breaks among a report's events, by scan code: cleared modifier bits, and mapped codes that the new snapshot lacks. -/
theorem exists_break_mem_reportEvents {cfg : Config} {oldMod mod : Byte} {old new : KeySlots} {h : Byte} :
    (∃ e ∈ reportEvents cfg oldMod mod old new, e.isMake = false ∧ h = scanByte e.scan) ↔
      (∃ i : Fin 8, oldMod.getLsbD i = true ∧ mod.getLsbD i = false ∧ h = scanByte (cfg.modScan i)) ∨
      (∃ u ∈ old.toList, 3 < u.toNat ∧ u ∉ new.toList ∧ ∃ scan, keyLookup cfg u = some scan ∧ h = scanByte scan) := by
  constructor
  · rintro ⟨e, he, hbreak, hscan⟩
    rw [reportEvents, List.mem_append, List.mem_append, mem_modifierEvents, mem_codeEvents, mem_codeEvents] at he
    obtain (⟨i, hne, rfl⟩ | ⟨u, hu, scan, hlook, rfl⟩) | ⟨_, _, _, _, rfl⟩ := he
    · have hnew : mod.getLsbD i = false := hbreak
      rw [hnew, Bool.ne_false_iff] at hne
      exact .inl ⟨i, hne, hnew, hscan⟩
    · obtain ⟨hin, hrep, hout⟩ := mem_leaving.mp hu
      exact .inr ⟨u, hin, hrep, hout, scan, hlook, hscan⟩
    · cases hbreak
  · rintro (⟨i, hold, hnew, hscan⟩ | ⟨u, hin, hrep, hout, scan, hlook, hscan⟩)
    · have hne : oldMod.getLsbD i ≠ mod.getLsbD i := by rw [hold, hnew]; decide
      have he := mem_modifierEvents (cfg := cfg).mpr ⟨i, hne, rfl⟩
      exact ⟨_, List.mem_append_left _ (List.mem_append_left _ he), hnew, hscan⟩
    · have he := mem_codeEvents (isMake := false).mpr ⟨u, mem_leaving.mpr ⟨hin, hrep, hout⟩, scan, hlook, rfl⟩
      exact ⟨_, List.mem_append_left _ (List.mem_append_right _ he), rfl, hscan⟩

/-- A report equal to the snapshot has no events (R97). -/
theorem reportEvents_self (cfg : Config) (mod : Byte) (keys : KeySlots) : reportEvents cfg mod mod keys keys = [] := by
  simp [reportEvents, modifierEvents_eq, leaving_self, codeEvents]

/-- Presenting the snapshot itself changes nothing (R97). -/
theorem kbdReport_self (cfg : Config) (s : State) : kbdReport cfg s.prevMod s.prevKeys s = s := by
  rw [kbdReport_eq, reportEvents_self, keyEvents_nil]

/-- What a report emits: its events in order, through the gate (R116). -/
theorem kbdReport_outputs (cfg : Config) (mod : Byte) (keys : KeySlots) (s : State) :
    (kbdReport cfg mod keys s).outputs =
      s.outputs ++ gated s.transmitInhibited (keyEventOutput (reportEvents cfg s.prevMod mod s.prevKeys keys)) := by
  rw [kbdReport_eq, keyEvents_eq]

/-- Settles O22: a report is its events and then the snapshot, and events touch the Repeat Timer and the output alone. -/
theorem keyboardReportStoresSnapshot : Obligations.KeyboardReportStoresSnapshot := fun mod k0 k1 k2 k3 k4 k5 s =>
  ⟨_, exec_eq _ s, rfl, rfl, ⟨_, (kbdReport_outputs Config.installed mod ⟨k0, k1, k2, k3, k4, k5⟩ s).symm⟩,
    by rw [applied, kbdReport_eq, keyEvents_eq]⟩

/-- Settles O25: after the first report the snapshot is the report. -/
theorem unchangedReportIsSilent : Obligations.UnchangedReportIsSilent := fun mod k0 k1 k2 k3 k4 k5 s =>
  ⟨_, exec_eq _ s, (exec_eq _ _).trans (congrArg _ (kbdReport_self Config.installed
    (kbdReport Config.installed mod ⟨k0, k1, k2, k3, k4, k5⟩ s)))⟩

/-! ### What events emit (R116) -/

theorem keyEventOutput_append (es fs : List KeyEvent) :
    keyEventOutput (es ++ fs) = keyEventOutput es ++ keyEventOutput fs := List.flatMap_append

theorem keyEventOutput_filterMap {α : Type} (f : α → Option KeyEvent) (xs : List α) :
    keyEventOutput (xs.filterMap f) = xs.flatMap fun x => keyEventOutput (f x).toList := by
  rw [keyEventOutput, List.filterMap_eq_flatMap_toList, List.flatMap_assoc]
  rfl

/-- Each event emits a byte and an activity trigger. -/
theorem length_keyEventOutput (es : List KeyEvent) : (keyEventOutput es).length = 2 * es.length := by
  induction es with
  | nil => rfl
  | cons e es ih =>
    rw [← List.singleton_append, keyEventOutput_append, List.length_append, ih, List.length_append, Nat.mul_add]
    rfl

theorem kbdTx_mem_keyEventOutput {b : Byte} {es : List KeyEvent} :
    OutputEvent.kbdTx b ∈ keyEventOutput es ↔ ∃ e ∈ es, b = keyByte e.scan e.isMake := by
  simp [keyEventOutput]

/-- What the modifier pass emits, bit by bit (R91). -/
theorem keyEventOutput_modifierEvents (cfg : Config) (old new : Byte) :
    keyEventOutput (modifierEvents cfg old new) = (List.finRange 8).flatMap fun i : Fin 8 =>
      if old.getLsbD i ≠ new.getLsbD i then [.kbdTx (keyByte (cfg.modScan i) (new.getLsbD i)), .act] else [] := by
  rw [modifierEvents_eq, keyEventOutput_filterMap]
  refine List.flatMap_congr fun i _ => ?_
  split <;> rfl

/-- What the break pass and the make pass emit, slot by slot (R92, R93). -/
theorem keyEventOutput_codeEvents_leaving (cfg : Config) (isMake : Bool) (xs ys : KeySlots) :
    keyEventOutput (codeEvents cfg isMake (leaving xs ys)) = xs.toList.flatMap fun u =>
      if 3 < u.toNat ∧ u ∉ ys.toList then
        (keyLookup cfg u).elim [] fun scan => [.kbdTx (keyByte scan isMake), .act]
      else [] := by
  rw [codeEvents, filterMap_leaving, keyEventOutput_filterMap]
  refine List.flatMap_congr fun u _ => ?_
  split
  · cases keyLookup cfg u <;> rfl
  · rfl

/-- Settles O23: a report emits what its three passes emit, one after the other. -/
theorem keyboardReportOutput : Obligations.KeyboardReportOutput := by
  intro mod k0 k1 k2 k3 k4 k5 s
  refine ⟨_, exec_eq _ s, ?_⟩
  intro cfg old new send sendCode
  have hcode (u : Byte) (isMake : Bool) : sendCode u isMake = (keyLookup cfg u).elim [] (send · isMake) := by
    simp only [sendCode]
    cases keyLookup cfg u <;> rfl
  simp only [hcode]
  rw [applied, kbdReport_outputs, gated, reportEvents, keyEventOutput_append, keyEventOutput_append,
    keyEventOutput_modifierEvents, keyEventOutput_codeEvents_leaving, keyEventOutput_codeEvents_leaving]
  rfl

/-! ### What events do to the Repeat Timer (R172, R175, R176) -/

/-- The key that a sequence of events makes last is held, with the delay loaded, whatever the events before it did. -/
theorem keyEvents_concat_make (es : List KeyEvent) (scan : ScanCode) (s : State) :
    (keyEvents (es ++ [⟨scan, true, false⟩]) s).heldScanCode = scanByte scan ∧
      (keyEvents (es ++ [⟨scan, true, false⟩]) s).countdownMs = msWord s.repeatDelayMs := by
  rw [keyEvents_eq, List.foldl_concat, List.foldl_concat]
  exact ⟨rfl, rfl⟩

/-- Without a make of a key, events leave the held code but for a break of it: that clears it, and once it is 0 no event of
these changes it. -/
theorem foldl_heldAfter1_of_no_key_make {es : List KeyEvent} (hes : ∀ e ∈ es, e.isMake = true → e.isModifier = true)
    (h : Byte) :
    es.foldl heldAfter1 h = if ∃ e ∈ es, e.isMake = false ∧ h = scanByte e.scan then 0 else h := by
  induction es generalizing h with
  | nil => simp
  | cons e es ih =>
    obtain ⟨he, hrest⟩ := List.forall_mem_cons.mp hes
    rw [List.foldl_cons, ih hrest]
    simp only [List.exists_mem_cons_iff]
    cases hm : e.isMake with
    | true => simp [heldAfter1, hm, he hm]
    | false =>
      by_cases hscan : h = scanByte e.scan <;> simp [heldAfter1, hm, hscan]

/-- Without a make of a key, events leave the countdown (R18, R176). -/
theorem foldl_countdownAfter1_of_no_key_make {es : List KeyEvent}
    (hes : ∀ e ∈ es, e.isMake = true → e.isModifier = true) (delay : BitVec 16) (c : BitVec 32) :
    es.foldl (countdownAfter1 delay) c = c := by
  induction es with
  | nil => rfl
  | cons e es ih =>
    obtain ⟨he, hrest⟩ := List.forall_mem_cons.mp hes
    have hkeep : countdownAfter1 delay c e = c := by
      cases hm : e.isMake with
      | true => simp [countdownAfter1, he hm]
      | false => simp [countdownAfter1, hm]
    rw [List.foldl_cons, hkeep, ih hrest]

/-- The make pass's events, from the scan codes they make. -/
theorem codeEvents_eq_map (cfg : Config) (isMake : Bool) (us : List Byte) :
    codeEvents cfg isMake us = (us.filterMap (keyLookup cfg)).map fun scan => ⟨scan, isMake, false⟩ :=
  List.map_filterMap.symm

/-- A report that makes a mapped key arms the timer with the last such key (R100, R172). -/
theorem kbdReport_timer_of_make {cfg : Config} {keys : KeySlots} {s : State} {scan : ScanCode} (mod : Byte)
    (hmade : ((leaving keys s.prevKeys).filterMap (keyLookup cfg)).getLast? = some scan) :
    (kbdReport cfg mod keys s).heldScanCode = scanByte scan ∧
      (kbdReport cfg mod keys s).countdownMs = msWord s.repeatDelayMs := by
  obtain ⟨init, hinit⟩ := List.getLast?_eq_some_iff.mp hmade
  rw [kbdReport_eq, reportEvents, codeEvents_eq_map cfg true, hinit, List.map_append, ← List.append_assoc]
  exact keyEvents_concat_make _ scan s

/-- A report that makes no mapped key leaves the countdown, and clears the held code if it has a break of it (R175, R176). -/
theorem kbdReport_timer_of_no_make {cfg : Config} {keys : KeySlots} {s : State} (mod : Byte)
    (hmade : (leaving keys s.prevKeys).filterMap (keyLookup cfg) = []) :
    (kbdReport cfg mod keys s).countdownMs = s.countdownMs ∧
      (kbdReport cfg mod keys s).heldScanCode =
        if ∃ e ∈ reportEvents cfg s.prevMod mod s.prevKeys keys, e.isMake = false ∧ s.heldScanCode = scanByte e.scan
        then 0 else s.heldScanCode := by
  have hes : ∀ e ∈ reportEvents cfg s.prevMod mod s.prevKeys keys, e.isMake = true → e.isModifier = true := by
    intro e he hmake
    rw [reportEvents, codeEvents_eq_map cfg true, hmade, List.map_nil, List.append_nil, List.mem_append,
      mem_modifierEvents, mem_codeEvents] at he
    obtain ⟨_, _, rfl⟩ | ⟨_, _, _, _, rfl⟩ := he
    · rfl
    · cases hmake
  rw [kbdReport_eq, keyEvents_eq]
  exact ⟨foldl_countdownAfter1_of_no_key_make hes _ _, foldl_heldAfter1_of_no_key_make hes _⟩

/-- Settles O24: the makes come last, so if there is one the last of them decides; if not, the breaks do. -/
theorem keyboardReportMovesTimer : Obligations.KeyboardReportMovesTimer := by
  intro mod k0 k1 k2 k3 k4 k5 s
  refine ⟨_, exec_eq _ s, ?_⟩
  intro cfg old new made
  have hmade : (leaving ⟨k0, k1, k2, k3, k4, k5⟩ s.prevKeys).filterMap (keyLookup cfg) = made :=
    filterMap_leaving (keyLookup cfg) ⟨k0, k1, k2, k3, k4, k5⟩ s.prevKeys
  split
  next scan hlast => exact kbdReport_timer_of_make mod (hmade ▸ hlast)
  next hlast =>
    obtain ⟨hcount, hheld⟩ := kbdReport_timer_of_no_make mod (hmade.trans (List.getLast?_eq_none_iff.mp hlast))
    refine ⟨hcount, ?_⟩
    simp only [exists_break_mem_reportEvents] at hheld
    split
    next hbreak => exact hheld.trans (if_pos hbreak)
    next hnone => exact hheld.trans (if_neg hnone)

/-! ### How many events there are (R97) -/

theorem mem_transitionCodes {cfg : Config} {old new : KeySlots} {u : Byte} :
    u ∈ transitionCodes cfg old new ↔
      3 < u.toNat ∧ (keyLookup cfg u).isSome = true ∧ ¬(u ∈ old.toList ↔ u ∈ new.toList) := by
  rw [transitionCodes, List.mem_filter, List.mem_append, mem_leaving, mem_leaving]
  tauto

theorem nodup_leaving {xs : KeySlots} (h : xs.NoRepeat) (ys : KeySlots) : (leaving xs ys).Nodup := by
  rw [leaving, List.filter_congr (fun _ _ => Bool.and_comm _ _), ← List.filter_filter]
  exact h.filter _

/-- Between snapshots without repeated codes no code has two events: a code that leaves one snapshot is absent from the other,
so it cannot leave that one as well. -/
theorem nodup_transitionCodes {old new : KeySlots} (hold : old.NoRepeat) (hnew : new.NoRepeat) (cfg : Config) :
    (transitionCodes cfg old new).Nodup := by
  refine List.Nodup.filter _ ((nodup_leaving hold new).append (nodup_leaving hnew old) fun u hu hu' => ?_)
  obtain ⟨hin, -, -⟩ := mem_leaving.mp hu
  obtain ⟨-, -, hout⟩ := mem_leaving.mp hu'
  exact hout hin

theorem length_modifierEvents (cfg : Config) (old new : Byte) :
    (modifierEvents cfg old new).length = (List.range 8).countP fun i => old.getLsbD i != new.getLsbD i := by
  rw [modifierEvents_eq, List.length_filterMap_eq_countP, ← List.map_coe_finRange_eq_range, List.countP_map]
  refine List.countP_congr fun i _ => ?_
  simp

theorem length_codeEvents (cfg : Config) (isMake : Bool) (us : List Byte) :
    (codeEvents cfg isMake us).length = (us.filter fun u => (keyLookup cfg u).isSome).length := by
  simp [codeEvents, List.length_filterMap_eq_countP, List.countP_eq_length_filter]

/-- A report has one event for each changed modifier bit and one for each code of the Differencer. -/
theorem length_reportEvents (cfg : Config) (oldMod mod : Byte) (old new : KeySlots) :
    (reportEvents cfg oldMod mod old new).length =
      ((List.range 8).countP fun i => oldMod.getLsbD i != mod.getLsbD i) + (transitionCodes cfg old new).length := by
  simp only [reportEvents, transitionCodes, List.length_append, List.filter_append, length_modifierEvents,
    length_codeEvents, Nat.add_assoc]

/-- Settles O26: the codes of the Differencer do not repeat, so a code counts once if it is among them; and each event of a
report emits two output events. -/
theorem differencerIsMinimal : Obligations.DifferencerIsMinimal := by
  constructor
  · intro cfg old new hold hnew u
    rw [(nodup_transitionCodes hold hnew cfg).count]
    exact if_congr mem_transitionCodes rfl rfl
  · intro mod k0 k1 k2 k3 k4 k5 s hgate
    refine ⟨_, exec_eq _ s, ?_⟩
    rw [applied, kbdReport_outputs, hgate, List.length_append, ← length_reportEvents, ← length_keyEventOutput]
    rfl

/-! ### The first report after RESET (R99) -/

/-- Bit 7 of a key byte is the break flag (R115). -/
theorem getLsbD_keyByte (scan : ScanCode) (isMake : Bool) : (keyByte scan isMake).getLsbD 7 = !isMake :=
  getLsbD_keyByteLayout (!isMake) scan

/-- Against the reset snapshot no modifier is cleared and no code leaves: 0 is no code (R92). -/
theorem isMake_of_mem_reportEvents_reset {cfg : Config} {mod : Byte} {keys : KeySlots} {e : KeyEvent}
    (he : e ∈ reportEvents cfg State.reset.prevMod mod State.reset.prevKeys keys) : e.isMake = true := by
  rw [← Bool.not_eq_false]
  intro hbreak
  obtain ⟨i, hold, -⟩ | ⟨u, hin, hrep, -⟩ := exists_break_mem_reportEvents.mp ⟨e, he, hbreak, rfl⟩
  · simp [State.reset] at hold
  · obtain rfl : u = 0 := by simpa [State.reset, KeySlots.toList] using hin
    exact absurd hrep (by decide)

/-- Settles O28: the all-zero report is the reset snapshot itself, and against that snapshot every event is a make. -/
theorem firstReportBreaksNothing : Obligations.FirstReportBreaksNothing := by
  intro s
  refine ⟨_, exec_eq .reset s, ?_, fun mod k0 k1 k2 k3 k4 k5 => ⟨_, _, exec_eq _ _, kbdReport_outputs _ _ _ _, ?_⟩⟩
  · exact (exec_eq _ _).trans (congrArg _ (kbdReport_self Config.installed (resetRegisters s)))
  · intro b hb
    obtain ⟨e, he, rfl⟩ := kbdTx_mem_keyEventOutput.mp hb
    rw [getLsbD_keyByte, isMake_of_mem_reportEvents_reset he, Bool.not_true]

end Sys2Proof.Machine
end

section
/-! PROOFS. The statements of 41_keycode_table_and_key_encoder.md: the lookup and the codes without an entry (KeyLookupIsDense,
UnmappedCodesLeaveNoTrace), the key byte's value and its emission (KeyByteValue, KeyByteEmission), and which operations emit
one (KeyByteOccasions). -/

namespace Sys2Proof.Machine

/-! ### The table lookup (R111, R112) -/

/-- Settles O21: the two sides of the range, in `keyLookup_in_range` and `keyLookup_out_of_range`. -/
theorem keyLookupIsDense : Obligations.KeyLookupIsDense := by
  intro cfg u
  split
  next hin =>
    obtain ⟨hlow, hhigh⟩ := hin
    exact keyLookup_in_range hlow hhigh
  next hout => exact keyLookup_out_of_range hout

/-- A modifier byte that did not change has no events (R91). -/
theorem modifierEvents_self (cfg : Config) (mod : Byte) : modifierEvents cfg mod mod = [] :=
  List.eq_nil_iff_forall_not_mem.mpr fun _ he =>
    have ⟨_, hne, _⟩ := mem_modifierEvents.mp he
    hne rfl

/-- Codes that leave have no events where the table has no entry for them (R112). -/
theorem codeEvents_leaving_eq_nil {cfg : Config} {xs ys : KeySlots}
    (h : ∀ u ∈ xs.toList, u ∉ ys.toList → keyLookup cfg u = none) (isMake : Bool) :
    codeEvents cfg isMake (leaving xs ys) = [] := by
  refine List.filterMap_eq_nil_iff.mpr fun u hu => ?_
  obtain ⟨hin, -, hout⟩ := mem_leaving.mp hu
  rw [h u hin hout, Option.map_none]

/-- Settles O27: none of the report's three passes has an event, so what is left of it is the snapshot. -/
theorem unmappedCodesLeaveNoTrace : Obligations.UnmappedCodesLeaveNoTrace := by
  intro cfg keys s hleft hentered
  have hevents : reportEvents cfg s.prevMod s.prevMod s.prevKeys keys = [] := by
    rw [reportEvents, modifierEvents_self, codeEvents_leaving_eq_nil hleft, codeEvents_leaving_eq_nil hentered]
    rfl
  rw [kbdReport_eq, hevents, keyEvents_nil]

/-! ### The key byte (R115, R116) -/

/-- The break flag is worth 128, above the scan code's seven bits. -/
theorem keyByteLayout_toNat (brk : Bool) (scan : ScanCode) :
    (keyByteLayout brk scan).toNat = (if brk then 128 else 0) + scan.toNat := by
  rw [keyByteLayout, BitVec.toNat_append, BitVec.toNat_ofBool, ← Nat.shiftLeft_add_eq_or_of_lt scan.isLt]
  cases brk <;> rfl

theorem keyByte_toNat (scan : ScanCode) (isMake : Bool) :
    (keyByte scan isMake).toNat = (if isMake then 0 else 0x80) + scan.toNat := by
  rw [keyByte, keyByteLayout_toNat]
  cases isMake <;> rfl

/-- `KeyByte` as R115 writes it: the break bit, and the scan code in the bits below it. -/
theorem keyByte_eq_or (scan : ScanCode) (isMake : Bool) :
    keyByte scan isMake = (if isMake then 0x00 else 0x80) ||| scanByte scan := by
  apply BitVec.eq_of_toNat_eq
  rw [keyByte, keyByteLayout, BitVec.toNat_append, BitVec.toNat_ofBool, BitVec.toNat_or, scanByte_toNat]
  cases isMake <;> rfl

/-- Settles O19: a scan code is below 128, so the byte is at most 0x7F just when the break bit adds nothing. -/
theorem keyByteValue : Obligations.KeyByteValue := by
  intro scan isMake
  refine ⟨keyByte_toNat scan isMake, keyByte_eq_or scan isMake, ?_⟩
  have hscan : scan.toNat < 128 := scan.isLt
  rw [keyByte_toNat]
  cases isMake with
  | true =>
    rw [if_pos rfl, Nat.zero_add]
    exact iff_of_true (Nat.le_of_lt_succ hscan) rfl
  | false =>
    rw [if_neg Bool.false_ne_true]
    exact iff_of_false (by omega) Bool.false_ne_true

/-- Settles O20: the row performs `SendKeyByte`, and its byte is the number that `keyByteLayout_toNat` gives. -/
theorem keyByteEmission : Obligations.KeyByteEmission := by
  intro brk scan s
  have hbyte : keyByte scan (!brk) = BitVec.ofNat 8 ((if brk then 128 else 0) + scan.toNat) := by
    rw [keyByte, Bool.not_not, ← keyByteLayout_toNat, BitVec.ofNat_toNat, BitVec.setWidth_eq]
  rw [exec_eq, applied, sendKeyByte_eq, hbyte, gated]

/-! ### The operations that emit no key byte (R117) -/

/-- From `s` to `t` the output grows by events none of which is a key byte. -/
def EmitsNoKeyByte (s t : State) : Prop :=
  ∃ es, t.outputs = s.outputs ++ es ∧ ∀ b, OutputEvent.kbdTx b ∉ es

theorem EmitsNoKeyByte.not_mem_drop {s t : State} (h : EmitsNoKeyByte s t) (b : Byte) :
    OutputEvent.kbdTx b ∉ t.outputs.drop s.outputs.length := by
  obtain ⟨es, hout, hes⟩ := h
  rw [hout, List.drop_left]
  exact hes b

theorem emitsNoKeyByte_of_silent {s t : State} (hout : t.outputs = s.outputs) : EmitsNoKeyByte s t :=
  ⟨[], hout.trans (List.append_nil _).symm, fun _ => List.not_mem_nil⟩

/-- An attempt emits a packet and its activity trigger, or nothing (R132, R134). -/
theorem mouseTransmitAttempt_emitsNoKeyByte (s : State) : EmitsNoKeyByte s (mouseTransmitAttempt s) := by
  rw [mouseTransmitAttempt_eq]
  split
  next => exact emitsNoKeyByte_of_silent rfl
  next =>
    refine ⟨_, rfl, fun b => ?_⟩
    split <;> simp

theorem setMouseControl_emitsNoKeyByte (asserted : Bool) (s : State) :
    EmitsNoKeyByte s (setMouseControl asserted s) := by
  rw [setMouseControl_eq]
  split
  next => exact mouseTransmitAttempt_emitsNoKeyByte { s with mouseControlAsserted := true }
  next => exact emitsNoKeyByte_of_silent rfl

/-- Of the commands a control byte can select, MSCTRL alone can emit (R150, R159). -/
theorem applied_ctrlByte_msctrl_or_silent (b : Byte) (s : State) :
    (∃ asserted, applied (.ctrlByte b) s = setMouseControl asserted s) ∨
      (applied (.ctrlByte b) s).outputs = s.outputs := by
  rw [← applied_resolved, Instr.resolved]
  rcases decodeCtrl_shapes b with
    ⟨m, _, h⟩ | ⟨_, h⟩ | ⟨_, _, h⟩ | ⟨_, h⟩ | ⟨_, h⟩ | ⟨_, h⟩ | ⟨_, h⟩ | ⟨_, h⟩ | ⟨_, h⟩ <;> rw [h]
  · exact .inl ⟨activeLow m, rfl⟩
  all_goals exact .inr rfl

theorem ctrlByte_emitsNoKeyByte (b : Byte) (s : State) : EmitsNoKeyByte s (applied (.ctrlByte b) s) := by
  obtain ⟨asserted, h⟩ | hout := applied_ctrlByte_msctrl_or_silent b s
  · rw [h]
    exact setMouseControl_emitsNoKeyByte asserted s
  · exact emitsNoKeyByte_of_silent hout

/-- Settles O44: the input rows one by one; those beside the two named emit at most a mouse packet. -/
theorem keyByteOccasions : Obligations.KeyByteOccasions := by
  rintro i s t hin h ⟨b, hb⟩
  obtain rfl := exec_next h
  by_contra hrow
  obtain ⟨htick, hkbd⟩ := not_or.mp hrow
  suffices hnone : EmitsNoKeyByte s (applied i s) from hnone.not_mem_drop b hb
  cases i with
  | tick e => exact absurd ⟨e, rfl⟩ htick
  | kbdReport m k0 k1 k2 k3 k4 k5 => exact absurd ⟨m, k0, k1, k2, k3, k4, k5, rfl⟩ hkbd
  | kbdTx brk scan => cases hin
  | mouseTx yon yop xon xop right left dx dy => cases hin
  | msctrl m x => exact setMouseControl_emitsNoKeyByte (activeLow m) s
  | ctrlByte c => exact ctrlByte_emitsNoKeyByte c s
  | mreqFall => exact mouseTransmitAttempt_emitsNoKeyByte s
  | ledbrt | keyinh | rptdly | rptint | ledset | ctrlNop00 | ctrlNop48 | ctrlNop50 | reset | mouseReport | inhibitFall
  | inhibitRise | mreqRise => exact emitsNoKeyByte_of_silent rfl

end Sys2Proof.Machine
end

section
/-! PROOFS. The statements of 42_mouse.md: accumulation over one report and over any number (MouseReportAccumulates,
MouseReportsSumExactly), the packet's three bytes (PacketByteZeroBits, PacketDataBytesWrap), the output row's emission
(MousePacketEmission), and which operations emit a packet (MousePacketOccasions). -/

namespace Sys2Proof.Machine

/-! ### Accumulation (R130, R131) -/

/-- Settles O29: the row performs `MOUSE_REPORT`, whose four fields are written out. -/
theorem mouseReportAccumulates : Obligations.MouseReportAccumulates := fun buttons x y s =>
  exec_eq (.mouseReport buttons x y) s

/-- What a sequence of reports leaves. Each report adds to the sums and hands its button bits on as the latches that the
reports after it may replace. -/
theorem appliedAll_mouseReports (rs : List (Byte × Byte × Byte)) (s : State) :
    appliedAll (rs.map fun r => .mouseReport r.1 r.2.1 r.2.2) s =
      { s with
        accDx := s.accDx + (rs.map fun r => motion r.2.1).sum
        accDy := s.accDy + (rs.map fun r => motion r.2.2).sum
        btnLeft := ((rs.map fun r => leftButton r.1).getLast?).getD s.btnLeft
        btnRight := ((rs.map fun r => rightButton r.1).getLast?).getD s.btnRight } := by
  induction rs generalizing s with
  | nil => simp [appliedAll]
  | cons r rs ih =>
    have hcons : appliedAll ((r :: rs).map fun r => .mouseReport r.1 r.2.1 r.2.2) s =
        appliedAll (rs.map fun r => .mouseReport r.1 r.2.1 r.2.2) (mouseReport r.1 r.2.1 r.2.2 s) := rfl
    rw [hcons, ih]
    simp only [mouseReport, List.map_cons, List.sum_cons, List.getLast?_cons, Option.getD_some, Int.add_assoc]

/-- Settles O30: by induction on the reports, in `appliedAll_mouseReports`. -/
theorem mouseReportsSumExactly : Obligations.MouseReportsSumExactly := by
  intro rs s
  rw [runInstrs_eq, appliedAll_mouseReports]
  rfl

/-! ### The packet's bytes (R133, R135) -/

theorem getLsbD_mouseByte0 (left right : Bool) (dx dy : Int) (i : Nat) :
    (mouseByte0 left right dx dy).getLsbD i =
      [left, right, false, false, overflowPos dx, overflowNeg dx, overflowPos dy, overflowNeg dy].getD i false :=
  getLsbD_packetByte0Layout ..

/-- Settles O32: the bits one by one, in `getLsbD_mouseByte0`. -/
theorem packetByteZeroBits : Obligations.PacketByteZeroBits := by
  intro left right dx dy b0
  simp only [b0, getLsbD_mouseByte0]
  exact ⟨rfl, rfl, rfl, rfl, rfl, rfl, rfl, rfl⟩

/-- The signed reading of a data byte: the value wrapped into -128..127. -/
theorem trunc8_toInt (v : Int) : (trunc8 v).toInt = (v + 128) % 256 - 128 := by
  rw [trunc8, BitVec.toInt_ofInt, Int.bmod_def]
  omega

/-- A data byte holds its axis exactly in the range of a signed byte, and there only. -/
theorem trunc8_toInt_eq_iff (v : Int) : (-128 ≤ v ∧ v ≤ 127) ↔ (trunc8 v).toInt = v := by
  rw [trunc8_toInt]
  omega

/-- A flag of the axis is set exactly where the data byte wraps. -/
theorem overflow_iff_wraps (v : Int) : (overflowPos v || overflowNeg v) = true ↔ (trunc8 v).toInt ≠ v := by
  rw [Ne, ← trunc8_toInt_eq_iff, overflowPos, overflowNeg, Bool.or_eq_true, decide_eq_true_eq, decide_eq_true_eq]
  omega

/-- With the gate open an attempt emits its packet first (R132). -/
theorem mouseTransmitAttempt_outputs {s : State} (hgate : s.transmitInhibited = false) :
    ∃ rest, (mouseTransmitAttempt s).outputs = s.outputs ++
      .mouseTx (mouseByte0 s.btnLeft s.btnRight s.accDx s.accDy) (trunc8 s.accDx) (trunc8 s.accDy) :: rest := by
  rw [mouseTransmitAttempt_eq, hgate, if_neg Bool.false_ne_true]
  exact ⟨_, rfl⟩

/-- Settles O33: the packet is the attempt's, and what holds of an axis holds of both. -/
theorem packetDataBytesWrap : Obligations.PacketDataBytesWrap := by
  intro s hgate
  obtain ⟨rest, hout⟩ := mouseTransmitAttempt_outputs hgate
  refine ⟨_, _, _, _, rest, exec_eq .mreqFall s, hout, trunc8_toNat _, trunc8_toInt _, trunc8_toNat _, trunc8_toInt _,
    trunc8_toInt_eq_iff _, trunc8_toInt_eq_iff _, ?_, ?_⟩ <;> simp only [getLsbD_mouseByte0]
  · exact overflow_iff_wraps s.accDx
  · exact overflow_iff_wraps s.accDy

/-! ### The emission of a packet (R134, R136) -/

theorem packetIsZero_iff (b0 b1 b2 : Byte) : packetIsZero b0 b1 b2 = true ↔ b0 = 0 ∧ b1 = 0 ∧ b2 = 0 := by
  simp only [packetIsZero, Bool.and_eq_true, beq_iff_eq, and_assoc]

/-- Settles O36: the row performs the gated emission, with byte 0 as its encoding has it. -/
theorem mousePacketEmission : Obligations.MousePacketEmission := by
  intro yon yop xon xop right left dx dy s
  refine ⟨packetByte0Layout yon yop xon xop right left, rfl, ?_⟩
  rw [exec_eq, applied, sendMousePacket_eq]
  simp only [packetIsZero_iff]

/-! ### The operations that emit a packet (R137) -/

/-- A mouse packet is among the events that the output grew by from `s` to `t`. -/
def EmitsPacket (s t : State) : Prop :=
  ∃ b0 b1 b2, OutputEvent.mouseTx b0 b1 b2 ∈ t.outputs.drop s.outputs.length

/-- The two occasions of R137, for an operation that takes `s` to `t`: a request edge, or a false-to-true transition of
`mouse_control_asserted`. -/
def PacketOccasion (i : Instr) (s t : State) : Prop :=
  i = .mreqFall ∨ (s.mouseControlAsserted = false ∧ t.mouseControlAsserted = true)

theorem emitsPacket_iff {s t : State} {es : List OutputEvent} (hout : t.outputs = s.outputs ++ es) :
    EmitsPacket s t ↔ ∃ b0 b1 b2, OutputEvent.mouseTx b0 b1 b2 ∈ es := by
  rw [EmitsPacket, hout, List.drop_left]

/-- Key bytes and their activity triggers are no packet (R116), sent or dropped. -/
theorem not_emitsPacket_of_keyOutput {s t : State} (inhibited : Bool) (es : List KeyEvent)
    (hout : t.outputs = s.outputs ++ gated inhibited (keyEventOutput es)) : ¬ EmitsPacket s t := by
  rw [emitsPacket_iff hout]
  cases inhibited <;> simp [gated, keyEventOutput]

theorem not_emitsPacket_of_silent {s t : State} (hout : t.outputs = s.outputs) : ¬ EmitsPacket s t :=
  not_emitsPacket_of_keyOutput true [] (hout.trans (List.append_nil _).symm)

theorem kbdReport_not_emitsPacket (cfg : Config) (mod : Byte) (keys : KeySlots) (s : State) :
    ¬ EmitsPacket s (kbdReport cfg mod keys s) :=
  not_emitsPacket_of_keyOutput s.transmitInhibited _ (kbdReport_outputs cfg mod keys s)

/-- The synthetic make of an expiring tick is a key byte (R174). -/
theorem tick_not_emitsPacket (e : Nat) (s : State) : ¬ EmitsPacket s (tick e s) := by
  rcases tick_cases e s with ⟨-, ht⟩ | ⟨-, -, ht⟩ | ⟨-, -, ht⟩ <;> rw [ht]
  · exact not_emitsPacket_of_silent rfl
  · exact not_emitsPacket_of_keyOutput s.transmitInhibited [⟨scanOfByte s.heldScanCode, true, false⟩] rfl
  · exact not_emitsPacket_of_silent rfl

/-- An attempt emits a packet just when the gate is open, also the empty one (R132, R134). -/
theorem mouseTransmitAttempt_emitsPacket_iff (s : State) :
    EmitsPacket s (mouseTransmitAttempt s) ↔ s.transmitInhibited = false := by
  cases hgate : s.transmitInhibited with
  | true =>
    rw [mouseTransmitAttempt_eq, if_pos hgate]
    exact iff_of_false (not_emitsPacket_of_silent rfl) Bool.true_eq_false.mp
  | false =>
    obtain ⟨rest, hout⟩ := mouseTransmitAttempt_outputs hgate
    exact iff_of_true ((emitsPacket_iff hout).mpr ⟨_, _, _, List.mem_cons_self⟩) rfl

/-- MSCTRL emits a packet just on a false-to-true transition with the gate open (R152). -/
theorem setMouseControl_emitsPacket_iff (asserted : Bool) (s : State) :
    EmitsPacket s (setMouseControl asserted s) ↔
      s.transmitInhibited = false ∧ s.mouseControlAsserted = false ∧ asserted = true := by
  rw [setMouseControl_eq]
  split
  next hrise =>
    rw [and_iff_left hrise]
    exact mouseTransmitAttempt_emitsPacket_iff { s with mouseControlAsserted := true }
  next hrise => exact iff_of_false (not_emitsPacket_of_silent rfl) fun h => hrise h.2

theorem setMouseControl_mouseControlAsserted (asserted : Bool) (s : State) :
    (setMouseControl asserted s).mouseControlAsserted = asserted :=
  congrArg LevelOutputs.mouseControlAsserted (setMouseControl_levelOutputs asserted s)

/-- The rows other than MREQ_FALL that make no attempt: no packet, and no false-to-true transition either. -/
theorem emitsPacket_iff_occasion_of_no_attempt {i : Instr} {s t : State} (hi : i ≠ .mreqFall)
    (hpacket : ¬ EmitsPacket s t) (hcontrol : t.mouseControlAsserted = true → s.mouseControlAsserted = true) :
    EmitsPacket s t ↔ s.transmitInhibited = false ∧ PacketOccasion i s t := by
  refine iff_of_false hpacket ?_
  rintro ⟨-, hreq | ⟨hlow, hhigh⟩⟩
  · exact hi hreq
  · exact Bool.false_ne_true (hlow.symm.trans (hcontrol hhigh))

/-- The input rows other than CTRL_BYTE, one by one. -/
theorem applied_emitsPacket_iff_of_ne_ctrlByte {i : Instr} (hin : i.isInput = true) (hi : ∀ b, i ≠ .ctrlByte b)
    (s : State) :
    EmitsPacket s (applied i s) ↔ s.transmitInhibited = false ∧ PacketOccasion i s (applied i s) := by
  cases i with
  | mreqFall => exact (mouseTransmitAttempt_emitsPacket_iff s).trans (and_iff_left (.inl rfl)).symm
  | msctrl m x =>
    simp [applied, PacketOccasion, setMouseControl_emitsPacket_iff, setMouseControl_mouseControlAsserted]
  | kbdReport m k0 k1 k2 k3 k4 k5 =>
    have hlevel := kbdReport_levelOutputs Config.installed m ⟨k0, k1, k2, k3, k4, k5⟩ s
    exact emitsPacket_iff_occasion_of_no_attempt nofun (kbdReport_not_emitsPacket _ _ _ s)
      (congrArg LevelOutputs.mouseControlAsserted hlevel).symm.trans
  | tick e =>
    exact emitsPacket_iff_occasion_of_no_attempt nofun (tick_not_emitsPacket e s)
      (congrArg LevelOutputs.mouseControlAsserted (tick_levelOutputs e s)).symm.trans
  | reset => exact emitsPacket_iff_occasion_of_no_attempt nofun (not_emitsPacket_of_silent rfl) nofun
  | ctrlByte b => exact absurd rfl (hi b)
  | kbdTx brk scan => cases hin
  | mouseTx yon yop xon xop right left dx dy => cases hin
  | ledbrt | keyinh | rptdly | rptint | ledset | ctrlNop00 | ctrlNop48 | ctrlNop50 | mouseReport | inhibitFall | inhibitRise
  | mreqRise => exact emitsPacket_iff_occasion_of_no_attempt nofun (not_emitsPacket_of_silent rfl) id

theorem resolved_isInput (i : Instr) : i.resolved.isInput = i.isInput := by
  cases i with
  | ctrlByte b => exact (decodeCtrl_wf_isInput b).2
  | _ => rfl

/-- A control byte selects no request edge: the two arrive on different ports. -/
theorem resolved_eq_mreqFall_iff (i : Instr) : i.resolved = .mreqFall ↔ i = .mreqFall := by
  cases i with
  | ctrlByte b =>
    refine iff_of_false (fun h => ?_) nofun
    have hencode := encode_decodeCtrl b
    rw [show decodeCtrl b = .mreqFall from h] at hencode
    cases hencode
  | _ => exact Iff.rfl

/-- Settles O37: the input rows one by one, a control byte through the command that it selects. -/
theorem mousePacketOccasions : Obligations.MousePacketOccasions := by
  intro i s t hin h
  obtain rfl := exec_next h
  have hocc := applied_emitsPacket_iff_of_ne_ctrlByte ((resolved_isInput i).trans hin) (resolved_ne_ctrlByte i) s
  rwa [applied_resolved, PacketOccasion, resolved_eq_mreqFall_iff] at hocc

end Sys2Proof.Machine
end

section
/-! PROOFS. The statements of 43_control_decoder.md: the dispatch (ControlByteDispatch), the six commands (MouseControlCommand,
LedBrightnessCommand, KeyInhibitCommand, RepeatDelayCommand, RepeatIntervalCommand, LedStateCommand), the discard
(UnmatchedBytesAreDiscarded) and the repeated byte (ControlBytesAreIdempotent). First the one fact they share: a control byte
does what the command does that its pattern selects. -/

namespace Sys2Proof.Machine

/-! ### The dispatch (R150) -/

/-- CTRL_BYTE and the command that the decoder reads from its byte are one operation (log 8). -/
theorem exec_ctrlByte (b : Byte) (s : State) : exec (.ctrlByte b) s = exec (decodeCtrl b) s := by
  rw [exec_eq, exec_eq, ← applied_resolved, Instr.resolved]

theorem exec_ctrlByte_dispatch (b : Byte) (s : State) :
    exec (.ctrlByte b) s =
      (if b &&& 0xF8 = 0x40 then exec (.msctrl (b.extractLsb' 0 1) (b.extractLsb' 1 2)) s
       else if b &&& 0xFC = 0x54 then exec (.ledbrt (b.extractLsb' 0 2)) s
       else if b &&& 0xF8 = 0x58 then exec (.keyinh (b.extractLsb' 0 1) (b.extractLsb' 1 2)) s
       else if b &&& 0xF0 = 0x60 then exec (.rptdly (b.extractLsb' 0 4)) s
       else if b &&& 0xF0 = 0x70 then exec (.rptint (b.extractLsb' 0 4)) s
       else if b &&& 0x80 = 0x80 then exec (.ledset (b.extractLsb' 0 7)) s
       else .next s) := rfl

/-- The six commands are the first six rows of the opcode map, of whose nine each byte selects one. -/
theorem count_selecting_commands_le (b : Byte) : ((ctrlRows.take 6).map fun r => r.selects b).count true ≤ 1 := by
  calc ((ctrlRows.take 6).map fun r => r.selects b).count true
      = (ctrlRows.take 6).countP fun r => r.selects b := by
        simp only [List.count, List.countP_map, Function.comp_def, beq_true]
    _ ≤ ctrlRows.countP fun r => r.selects b := (List.take_sublist 6 ctrlRows).countP_le
    _ = 1 := List.countP_eq_length_filter.trans (length_selecting_ctrlRows b)

/-- Settles O10: the dispatch is the definition of CTRL_BYTE's meaning, the decoder makes the same choice. -/
theorem controlByteDispatch : Obligations.ControlByteDispatch := fun b s =>
  ⟨applied (.ctrlByte b) s, exec_eq (.ctrlByte b) s, (exec_ctrlByte b s).symm.trans (exec_eq (.ctrlByte b) s),
    exec_ctrlByte_dispatch b s, count_selecting_commands_le b⟩

/-! ### The command each pattern selects (R65, R150) -/

section Selected

variable {b : Byte}

theorem exec_ctrlByte_of_msctrl (h : b &&& 0xF8 = 0x40) (s : State) :
    exec (.ctrlByte b) s = exec (.msctrl (b.extractLsb' 0 1) (b.extractLsb' 1 2)) s := by
  rw [exec_ctrlByte_dispatch, if_pos h]

theorem exec_ctrlByte_of_ledbrt (h : b &&& 0xFC = 0x54) (s : State) :
    exec (.ctrlByte b) s = exec (.ledbrt (b.extractLsb' 0 2)) s := by
  rw [masked_ledbrt] at h
  simp (disch := omega) only [exec_ctrlByte, decodeCtrl_eq_ranges, if_neg, if_pos]

theorem exec_ctrlByte_of_keyinh (h : b &&& 0xF8 = 0x58) (s : State) :
    exec (.ctrlByte b) s = exec (.keyinh (b.extractLsb' 0 1) (b.extractLsb' 1 2)) s := by
  rw [masked_keyinh] at h
  simp (disch := omega) only [exec_ctrlByte, decodeCtrl_eq_ranges, if_neg, if_pos]

theorem exec_ctrlByte_of_rptdly (h : b &&& 0xF0 = 0x60) (s : State) :
    exec (.ctrlByte b) s = exec (.rptdly (b.extractLsb' 0 4)) s := by
  rw [masked_rptdly] at h
  simp (disch := omega) only [exec_ctrlByte, decodeCtrl_eq_ranges, if_neg, if_pos]

theorem exec_ctrlByte_of_rptint (h : b &&& 0xF0 = 0x70) (s : State) :
    exec (.ctrlByte b) s = exec (.rptint (b.extractLsb' 0 4)) s := by
  rw [masked_rptint] at h
  simp (disch := omega) only [exec_ctrlByte, decodeCtrl_eq_ranges, if_neg, if_pos]

theorem exec_ctrlByte_of_ledset (h : b &&& 0x80 = 0x80) (s : State) :
    exec (.ctrlByte b) s = exec (.ledset (b.extractLsb' 0 7)) s := by
  rw [masked_ledset] at h
  simp (disch := omega) only [exec_ctrlByte, decodeCtrl_eq_ranges, if_neg, if_pos]

/-- The bytes between the patterns match none of the six (R158). -/
theorem exec_ctrlByte_of_reserved
    (h : b.toNat ≤ 0x3F ∨ (0x48 ≤ b.toNat ∧ b.toNat ≤ 0x4F) ∨ (0x50 ≤ b.toNat ∧ b.toNat ≤ 0x53)) (s : State) :
    exec (.ctrlByte b) s = .next s := by
  simp only [exec_ctrlByte_dispatch, masked_msctrl, masked_ledbrt, masked_keyinh, masked_rptdly, masked_rptint, masked_ledset]
  simp (disch := omega) only [if_neg]

end Selected

/-- Settles O17: the three rows' own meanings, and no pattern matches a byte of their ranges. -/
theorem unmatchedBytesAreDiscarded : Obligations.UnmatchedBytesAreDiscarded :=
  ⟨fun _ _ => rfl, fun _ _ => rfl, fun _ _ => rfl, fun _ s h => exec_ctrlByte_of_reserved h s⟩

/-! ### The commands that write a level output (R152, R153, R154, R157) -/

/-- Settles O12: the command writes one register, and every byte of its pattern selects it. -/
theorem ledBrightnessCommand : Obligations.LedBrightnessCommand :=
  ⟨fun _ _ => rfl, fun _ s h => exec_ctrlByte_of_ledbrt h s⟩

/-- Settles O16: the command writes one register, and every byte with bit 7 set selects it. -/
theorem ledStateCommand : Obligations.LedStateCommand :=
  ⟨fun _ _ => rfl, fun _ s h => exec_ctrlByte_of_ledset h s⟩

theorem activeLow_eq_decide (v : BitVec 1) : activeLow v = decide (v = 0) := rfl

/-- The active-low operand as the byte carries it. -/
theorem activeLow_bit0 (b : Byte) : activeLow (b.extractLsb' 0 1) = !b.getLsbD 0 := by
  rw [← ofBool_getLsbD]
  cases b.getLsbD 0 <;> rfl

theorem exec_msctrl (m : BitVec 1) (x : BitVec 2) (s : State) :
    exec (.msctrl m x) s =
      .next (if s.mouseControlAsserted = false ∧ activeLow m = true then
               mouseTransmitAttempt { s with mouseControlAsserted := true }
             else { s with mouseControlAsserted := activeLow m }) := by
  rw [exec_eq, applied, setMouseControl_eq]

/-- Settles O11: the register and the transition, with the operand read first from the command and then from the byte. -/
theorem mouseControlCommand : Obligations.MouseControlCommand := by
  refine ⟨fun m x s => ?_, fun b s h => ?_⟩
  · simp only [exec_msctrl, activeLow_eq_decide, decide_eq_true_eq]
  · simp only [exec_ctrlByte_of_msctrl h, exec_msctrl, activeLow_bit0, Bool.not_eq_true']

/-! ### No operation reads `key_inhibit` (R154, R23) -/

/-- A state change that does the same to everything but `key_inhibit`, whatever `key_inhibit` holds. -/
def IgnoresKeyInhibit (f : State → State) : Prop :=
  ∀ s v, ∃ v', f { s with keyInhibit := v } = { f s with keyInhibit := v' }

theorem ignoresKeyInhibit_of_carried {f : State → State}
    (h : ∀ s v, f { s with keyInhibit := v } = { f s with keyInhibit := v }) : IgnoresKeyInhibit f :=
  fun s v => ⟨v, h s v⟩

theorem sendKeyByte_with_keyInhibit (scan : ScanCode) (isMake : Bool) (s : State) (v : Bool) :
    sendKeyByte scan isMake { s with keyInhibit := v } = { sendKeyByte scan isMake s with keyInhibit := v } := by
  simp only [sendKeyByte_eq]

theorem kbdReport_with_keyInhibit (cfg : Config) (mod : Byte) (keys : KeySlots) (s : State) (v : Bool) :
    kbdReport cfg mod keys { s with keyInhibit := v } = { kbdReport cfg mod keys s with keyInhibit := v } := by
  simp only [kbdReport_eq, keyEvents_eq]

theorem tick_with_keyInhibit (e : Nat) (s : State) (v : Bool) :
    tick e { s with keyInhibit := v } = { tick e s with keyInhibit := v } := by
  by_cases h0 : s.heldScanCode = 0
  · simp only [tick, if_pos h0]
  by_cases hc : s.countdownMs.toInt - e ≤ 0
  · simp only [tick, if_neg h0, if_pos hc, sendKeyByte_with_keyInhibit]
  · simp only [tick, if_neg h0, if_neg hc]

theorem sendMousePacket_with_keyInhibit (b0 b1 b2 : Byte) (s : State) (v : Bool) :
    sendMousePacket b0 b1 b2 { s with keyInhibit := v } = { sendMousePacket b0 b1 b2 s with keyInhibit := v } := by
  simp only [sendMousePacket_eq]
  split <;> rfl

theorem setMouseControl_with_keyInhibit (asserted : Bool) (s : State) (v : Bool) :
    setMouseControl asserted { s with keyInhibit := v } = { setMouseControl asserted s with keyInhibit := v } := by
  simp only [setMouseControl_eq]
  split
  next => exact sendMousePacket_with_keyInhibit _ _ _ { s with mouseControlAsserted := true } v
  next => rfl

/-- The rows other than CTRL_BYTE, one by one: KEYINH and RESET write the flag, the others carry it along. -/
theorem applied_ignoresKeyInhibit_of_ne_ctrlByte {i : Instr} (hi : ∀ b, i ≠ .ctrlByte b) :
    IgnoresKeyInhibit (applied i) := by
  cases i with
  | keyinh k x => exact fun s v => ⟨activeLow k, rfl⟩
  | reset => exact fun s v => ⟨State.reset.keyInhibit, rfl⟩
  | msctrl m x => exact ignoresKeyInhibit_of_carried (setMouseControl_with_keyInhibit (activeLow m))
  | kbdReport m k0 k1 k2 k3 k4 k5 =>
    exact ignoresKeyInhibit_of_carried (kbdReport_with_keyInhibit Config.installed m ⟨k0, k1, k2, k3, k4, k5⟩)
  | tick e => exact ignoresKeyInhibit_of_carried (tick_with_keyInhibit e)
  | mreqFall => exact ignoresKeyInhibit_of_carried fun s v => sendMousePacket_with_keyInhibit _ _ _ s v
  | kbdTx brk scan => exact ignoresKeyInhibit_of_carried (sendKeyByte_with_keyInhibit scan (!brk))
  | mouseTx yon yop xon xop right left dx dy =>
    exact ignoresKeyInhibit_of_carried (sendMousePacket_with_keyInhibit _ dx dy)
  | ctrlByte b => exact absurd rfl (hi b)
  | ledbrt | rptdly | rptint | ledset | ctrlNop00 | ctrlNop48 | ctrlNop50 | mouseReport | inhibitFall | inhibitRise
  | mreqRise => exact ignoresKeyInhibit_of_carried fun _ _ => rfl

theorem applied_ignoresKeyInhibit (i : Instr) : IgnoresKeyInhibit (applied i) := by
  have h := applied_ignoresKeyInhibit_of_ne_ctrlByte (resolved_ne_ctrlByte i)
  rwa [show applied i.resolved = applied i from funext (applied_resolved i)] at h

/-- Settles O13: the flag's write, from the command and from its byte, and the flag's absence from every operation. -/
theorem keyInhibitCommand : Obligations.KeyInhibitCommand := by
  refine ⟨fun k x s => rfl, fun b s h => ?_, fun i s t v h => ?_⟩
  · rw [exec_ctrlByte_of_keyinh h, ← activeLow_bit0]
    rfl
  · obtain rfl := exec_next h
    obtain ⟨v', hv'⟩ := applied_ignoresKeyInhibit i s v
    exact ⟨v', by rw [exec_eq, hv']⟩

/-! ### The repeat times (R155, R156) -/

theorem delayMs_toNat (d : BitVec 4) : (delayMs d).toNat = 200 + d.toNat * 100 := by
  have := d.isLt
  simp only [delayMs, BitVec.truncate_eq_setWidth, BitVec.toNat_add, BitVec.toNat_mul, BitVec.toNat_setWidth,
    BitVec.ofNat_eq_ofNat, BitVec.toNat_ofNat]
  omega

theorem intervalMs_toNat (r : BitVec 4) : (intervalMs r).toNat = 30 + r.toNat * r.toNat * 5 := by
  have hr : r.toNat ≤ 15 := Nat.le_of_lt_succ r.isLt
  have hsq : r.toNat * r.toNat ≤ 15 * 15 := Nat.mul_le_mul hr hr
  have hmod : r.toNat % 2 ^ 16 = r.toNat := Nat.mod_eq_of_lt (by omega)
  simp only [intervalMs, BitVec.truncate_eq_setWidth, BitVec.toNat_add, BitVec.toNat_mul, BitVec.toNat_setWidth,
    BitVec.ofNat_eq_ofNat, BitVec.toNat_ofNat, hmod]
  omega

theorem repeatDelays_getElem? : ∀ n < 16, repeatDelays[n]? = some (200 + n * 100) := by decide

theorem repeatIntervals_getElem? : ∀ n < 16, repeatIntervals[n]? = some (30 + n * n * 5) := by decide

/-- A key's make loads the delay as it stands (R172). -/
theorem repeatTrack_make_countdownMs (scan : ScanCode) (s : State) :
    (repeatTrack ⟨scan, true, false⟩ s).countdownMs.toInt = s.repeatDelayMs.toNat :=
  msWord_toInt s.repeatDelayMs

/-- A tick that reaches the countdown of a held key loads the interval as it stands (R174). -/
theorem tick_expired_countdownMs {e : Nat} {s : State} (hheld : s.heldScanCode ≠ 0) (he : s.countdownMs.toInt ≤ e) :
    (tick e s).countdownMs.toInt = s.repeatIntervalMs.toNat := by
  obtain ⟨hidle, -⟩ | ⟨-, -, ht⟩ | ⟨-, hlate, -⟩ := tick_cases e s
  · exact absurd hidle hheld
  · rw [ht, msWord_toInt]
  · omega

/-- Settles O14: the delay's value, and an arming that reads it from the register. -/
theorem repeatDelayCommand : Obligations.RepeatDelayCommand := by
  refine ⟨fun d s => ⟨{ s with repeatDelayMs := delayMs d }, rfl, rfl, delayMs_toNat d, ?_, fun scan => ?_⟩,
    fun b s h => exec_ctrlByte_of_rptdly h s⟩
  · rw [delayMs_toNat, repeatDelays_getElem? d.toNat d.isLt]
  · rw [repeatTrack_make_countdownMs, delayMs_toNat]
    norm_cast

/-- Settles O15: the interval's value, and an expiry that reads it from the register. -/
theorem repeatIntervalCommand : Obligations.RepeatIntervalCommand := by
  refine ⟨fun r s => ⟨{ s with repeatIntervalMs := intervalMs r }, rfl, rfl, intervalMs_toNat r, ?_,
    fun e hheld he => ⟨_, exec_eq (.tick e) _, ?_⟩⟩, fun b s h => exec_ctrlByte_of_rptint h s⟩
  · rw [intervalMs_toNat, repeatIntervals_getElem? r.toNat r.isLt]
  · have hexpired := tick_expired_countdownMs (s := { s with repeatIntervalMs := intervalMs r }) hheld he
    rw [applied, hexpired, intervalMs_toNat]
    norm_cast

/-! ### The same byte again (R159) -/

/-- With its register already at the operand MSCTRL sees no transition. -/
theorem setMouseControl_of_held {asserted : Bool} {s : State} (h : s.mouseControlAsserted = asserted) :
    setMouseControl asserted s = s := by
  subst h
  rw [setMouseControl_eq, if_neg fun ⟨hlow, hhigh⟩ => Bool.false_ne_true (hlow.symm.trans hhigh)]

/-- MSCTRL finds its own operand in the register; every other command is a write of a constant. -/
theorem applied_ctrlByte_twice (b : Byte) (s : State) :
    applied (.ctrlByte b) (applied (.ctrlByte b) s) = applied (.ctrlByte b) s := by
  simp only [← applied_resolved (.ctrlByte b), Instr.resolved]
  rcases decodeCtrl_shapes b with
    ⟨m, _, h⟩ | ⟨_, h⟩ | ⟨_, _, h⟩ | ⟨_, h⟩ | ⟨_, h⟩ | ⟨_, h⟩ | ⟨_, h⟩ | ⟨_, h⟩ | ⟨_, h⟩ <;> rw [h]
  · exact setMouseControl_of_held (setMouseControl_mouseControlAsserted (activeLow m) s)
  all_goals rfl

/-- Settles O18: the state after the byte is the one that the byte again leaves, its output included. -/
theorem controlBytesAreIdempotent : Obligations.ControlBytesAreIdempotent := fun b s =>
  ⟨applied (.ctrlByte b) s, exec_eq (.ctrlByte b) s,
    (exec_eq (.ctrlByte b) _).trans (congrArg Host.Outcome.next (applied_ctrlByte_twice b s))⟩

end Sys2Proof.Machine
end

section
/-! PROOFS. The statements of 44_repeat_timer.md: the transitions of a key event and of a tick (RepeatTrackTransitions,
TickCountsDown), the timing property of R178 (SyntheticMakeAtExpiry, SyntheticMakeEveryInterval) and the operations that do
not move the timer (TimerMovesOnlyOnItsEvents). First one tick of a held key, before the countdown and at it; a sequence of
ticks is then one lemma by induction and one expiry. -/

namespace Sys2Proof.Machine

/-! ### One key event, one tick (R171, R174) -/

/-- Settles O39: `repeatTrack_eq` for each direction, the two origins of a make apart. -/
theorem repeatTrackTransitions : Obligations.RepeatTrackTransitions := by
  intro scan isMake isModifier s
  rw [repeatTrack_eq]
  cases isMake with
  | false =>
    by_cases hbreak : s.heldScanCode = scanByte scan
    · exact (if_pos hbreak).trans (if_pos ⟨rfl, hbreak⟩).symm
    · exact (if_neg hbreak).trans (if_neg fun ⟨_, h⟩ => hbreak h).symm
  | true => cases isModifier <;> rfl

/-- The state an expiry leaves: the synthetic make through the gate, and the interval loaded as it stands (R174, R177). -/
def State.expire (s : State) : State :=
  { s with
    outputs := s.outputs ++ gated s.transmitInhibited [.kbdTx (keyByte (scanOfByte s.heldScanCode) true), .act]
    countdownMs := msWord s.repeatIntervalMs }

section HeldKey
variable {e : Nat} {s : State} (hheld : s.heldScanCode ≠ 0)
include hheld

/-- A tick short of the countdown is subtracted, and nothing else happens. -/
theorem tick_before_expiry (he : (e : Int) < s.countdownMs.toInt) :
    ∃ c, tick e s = { s with countdownMs := c } ∧ c.toInt = s.countdownMs.toInt - e := by
  obtain ⟨hidle, -⟩ | ⟨-, hdue, -⟩ | ⟨-, hpos, ht⟩ := tick_cases e s
  · exact absurd hidle hheld
  · omega
  · exact ⟨_, ht, countdown_sub_toInt (by omega)⟩

/-- A tick that reaches the countdown expires it once, whatever it overshoots by (log 16). -/
theorem tick_at_expiry (he : s.countdownMs.toInt ≤ e) : tick e s = s.expire := by
  obtain ⟨hidle, -⟩ | ⟨-, -, ht⟩ | ⟨-, hpos, -⟩ := tick_cases e s
  · exact absurd hidle hheld
  · exact ht
  · omega

end HeldKey

/-- Settles O40: the idle case from `tick_cases`, the two Armed ones from the lemmas on a held key. -/
theorem tickCountsDown : Obligations.TickCountsDown := by
  refine fun e s => ⟨tick e s, exec_eq (.tick e) s, fun hidle => if_pos hidle, fun hheld hpos => ?_, fun hheld hdue => ?_⟩
  · obtain ⟨c, ht, hc⟩ := tick_before_expiry hheld (show (e : Int) < _ by omega)
    rw [ht]
    exact ⟨rfl, hc⟩
  · exact tick_at_expiry hheld (by omega)

/-! ### Sequences of ticks (R178) -/

theorem appliedAll_append (is js : List Instr) (s : State) :
    appliedAll (is ++ js) s = appliedAll js (appliedAll is s) := List.foldl_append

/-- Ticks whose sum is short of the countdown are subtracted, and nothing else happens. -/
theorem appliedAll_ticks_before_expiry {es : List Nat} {s : State} (hheld : s.heldScanCode ≠ 0)
    (hes : (es.sum : Int) < s.countdownMs.toInt) :
    ∃ c, appliedAll (es.map .tick) s = { s with countdownMs := c } ∧ c.toInt = s.countdownMs.toInt - es.sum := by
  induction es generalizing s with
  | nil => exact ⟨s.countdownMs, rfl, by simp⟩
  | cons e es ih =>
    rw [List.sum_cons] at hes ⊢
    obtain ⟨c, ht, hc⟩ := tick_before_expiry hheld (show (e : Int) < _ by omega)
    obtain ⟨c', hts, hc'⟩ := ih (s := { s with countdownMs := c }) hheld (by simp only [hc]; omega)
    refine ⟨c', ?_, by simp only [hc] at hc'; omega⟩
    calc appliedAll ((e :: es).map .tick) s
        = appliedAll (es.map .tick) (tick e s) := rfl
      _ = { s with countdownMs := c' } := by rw [ht, hts]

/-- The tick with which the sum reaches the countdown expires it; the ticks before it leave no other trace. -/
theorem appliedAll_ticks_at_expiry {es : List Nat} {e : Nat} {s : State} (hheld : s.heldScanCode ≠ 0)
    (hes : (es.sum : Int) < s.countdownMs.toInt) (he : s.countdownMs.toInt ≤ (es.sum + e : Nat)) :
    appliedAll ((es ++ [e]).map .tick) s = s.expire := by
  obtain ⟨c, hts, hc⟩ := appliedAll_ticks_before_expiry hheld hes
  rw [List.map_append, appliedAll_append, hts]
  exact tick_at_expiry (s := { s with countdownMs := c }) hheld (by simp only [hc]; omega)

/-- Settles O41: the ticks before the last in `appliedAll_ticks_before_expiry`, the last in `appliedAll_ticks_at_expiry`. -/
theorem syntheticMakeAtExpiry : Obligations.SyntheticMakeAtExpiry := by
  intro es e s hheld hes
  simp only [runInstrs_eq]
  obtain ⟨c, hts, hc⟩ := appliedAll_ticks_before_expiry hheld hes
  refine ⟨⟨_, rfl, ?_⟩, fun he => congrArg _ (appliedAll_ticks_at_expiry hheld hes he)⟩
  rw [hts]
  exact ⟨rfl, hc⟩

/-- One interval of unit ticks from a loaded interval: all but the last are short of it, and the last reaches it. -/
theorem appliedAll_unit_ticks_interval {s : State} (hheld : s.heldScanCode ≠ 0) (hinterval : s.repeatIntervalMs ≠ 0)
    (hloaded : s.countdownMs = msWord s.repeatIntervalMs) :
    appliedAll (List.replicate s.repeatIntervalMs.toNat (.tick 1)) s = s.expire := by
  have hcount : s.countdownMs.toInt = s.repeatIntervalMs.toNat := by rw [hloaded, msWord_toInt]
  obtain ⟨k, hk⟩ := Nat.exists_eq_succ_of_ne_zero (mt (BitVec.eq_of_toNat_eq (y := 0)) hinterval)
  have hticks : List.replicate s.repeatIntervalMs.toNat (Instr.tick 1) = (List.replicate k 1 ++ [1]).map .tick := by
    rw [hk, List.replicate_succ', List.map_append, List.map_replicate, List.map_singleton]
  rw [hticks]
  apply appliedAll_ticks_at_expiry hheld <;> rw [hcount, hk, List.sum_replicate_nat] <;> omega

/-- With the gate open and the interval loaded an expiry leaves its output and nothing else. -/
theorem expire_of_loaded {s : State} (hgate : s.transmitInhibited = false)
    (hloaded : s.countdownMs = msWord s.repeatIntervalMs) :
    s.expire = { s with outputs := s.outputs ++ [.kbdTx (keyByte (scanOfByte s.heldScanCode) true), .act] } := by
  rw [State.expire, hgate, ← hloaded]
  rfl

/-- Settles O42: by induction on the intervals, each of which ends as it began, its synthetic make apart. -/
theorem syntheticMakeEveryInterval : Obligations.SyntheticMakeEveryInterval := by
  intro n s hheld hinterval hloaded hgate
  rw [runInstrs_eq]
  congr 1
  induction n generalizing s with
  | zero => simp [appliedAll]
  | succ n ih =>
    rw [Nat.succ_mul, Nat.add_comm, List.replicate_add, appliedAll_append,
      appliedAll_unit_ticks_interval hheld hinterval hloaded, expire_of_loaded hgate hloaded,
      List.replicate_succ, List.flatten_cons, ← List.append_assoc]
    exact ih { s with outputs := s.outputs ++ _ } hheld hinterval hloaded hgate

/-! ### The operations that leave the timer alone (R170) -/

/-- The two registers of the Repeat Timer (R17, R18) hold what they held. -/
def KeepsTimer (s t : State) : Prop := t.heldScanCode = s.heldScanCode ∧ t.countdownMs = s.countdownMs

theorem sendMousePacket_keepsTimer (b0 b1 b2 : Byte) (s : State) : KeepsTimer s (sendMousePacket b0 b1 b2 s) := by
  obtain ⟨dx, dy, outs, heq⟩ := sendMousePacket_frame b0 b1 b2 s
  rw [heq]
  exact ⟨rfl, rfl⟩

theorem setMouseControl_keepsTimer (asserted : Bool) (s : State) : KeepsTimer s (setMouseControl asserted s) := by
  obtain ⟨dx, dy, outs, heq⟩ := setMouseControl_frame asserted s
  rw [heq]
  exact ⟨rfl, rfl⟩

theorem sendKeyByte_keepsTimer (scan : ScanCode) (isMake : Bool) (s : State) :
    KeepsTimer s (sendKeyByte scan isMake s) := by
  rw [sendKeyByte_eq]
  exact ⟨rfl, rfl⟩

/-- No command of a control byte moves the timer: RPTDLY and RPTINT write the times that the next load reads (R24, R25). -/
theorem ctrlByte_keepsTimer (b : Byte) (s : State) : KeepsTimer s (applied (.ctrlByte b) s) := by
  rw [← applied_resolved, Instr.resolved]
  rcases decodeCtrl_shapes b with
    ⟨m, _, h⟩ | ⟨_, h⟩ | ⟨_, _, h⟩ | ⟨_, h⟩ | ⟨_, h⟩ | ⟨_, h⟩ | ⟨_, h⟩ | ⟨_, h⟩ | ⟨_, h⟩ <;> rw [h]
  · exact setMouseControl_keepsTimer (activeLow m) s
  all_goals exact ⟨rfl, rfl⟩

/-- Settles O43: the rows one by one; those beside the three named write neither register. -/
theorem timerMovesOnlyOnItsEvents : Obligations.TimerMovesOnlyOnItsEvents := by
  intro i s t h
  obtain rfl := exec_next h
  cases i with
  | tick e => exact .inr (.inl ⟨e, rfl⟩)
  | reset => exact .inr (.inr (.inl rfl))
  | kbdReport m k0 k1 k2 k3 k4 k5 => exact .inr (.inr (.inr ⟨m, k0, k1, k2, k3, k4, k5, rfl⟩))
  | msctrl m x => exact .inl (setMouseControl_keepsTimer (activeLow m) s)
  | ctrlByte b => exact .inl (ctrlByte_keepsTimer b s)
  | mreqFall => exact .inl (sendMousePacket_keepsTimer _ _ _ s)
  | kbdTx brk scan => exact .inl (sendKeyByte_keepsTimer scan (!brk) s)
  | mouseTx yon yop xon xop right left dx dy => exact .inl (sendMousePacket_keepsTimer _ dx dy s)
  | ledbrt | keyinh | rptdly | rptint | ledset | ctrlNop00 | ctrlNop48 | ctrlNop50 | mouseReport | inhibitFall
  | inhibitRise | mreqRise => exact .inl ⟨rfl, rfl⟩

end Sys2Proof.Machine
end

section
/-! PROOFS. The statements of 45_transmit_gate.md: the four edges (InhibitFallSetsGate, InhibitRiseClearsGate,
MouseRequestRiseDoesNothing, MouseRequestTransmits, SignalLinesAreIndependent), what the gate drops
(NothingEmittedWhileInhibited, InhibitDropsOnlyOutput) and what gates nothing (ControlFlagsGateNothing). First one lemma that
says all that an operation does with the gate flag, `applied_passesGate`; the statements about the gate read it off. -/

namespace Sys2Proof.Machine

/-! ### All that an operation does with the gate flag (R195) -/

/-- The gate flag after an operation that finds `inhibited` in it (R190, R191, R240). -/
def gateAfter : Instr → Bool → Bool
  | .inhibitFall, _ => true
  | .inhibitRise, _ | .reset, _ => false
  | _, inhibited => inhibited

/-- All that `f` does from `s` with the gate flag `g` it finds: it moves the flag by `gate`, its output passes through the gate,
and where it `attempts` a mouse transmission an inhibiting gate keeps the motion. All else, the state `r`, is the same under
both values. -/
def PassesGate (attempts : Bool) (gate : Bool → Bool) (f : State → State) (s : State) : Prop :=
  ∃ (r : State) (es : List OutputEvent), ∀ g, f { s with transmitInhibited := g } =
    { r with
      transmitInhibited := gate g
      outputs := s.outputs ++ gated g es
      accDx := if attempts && g then s.accDx else r.accDx
      accDy := if attempts && g then s.accDy else r.accDy }

theorem gated_nil (inhibited : Bool) : gated inhibited [] = [] := ite_self []

/-- A change of registers alone passes nothing through the gate. -/
theorem passesGate_of_silent {gate : Bool → Bool} {f : State → State} {s : State}
    (h : ∀ g, f { s with transmitInhibited := g } = { f s with transmitInhibited := gate g, outputs := s.outputs }) :
    PassesGate false gate f s :=
  ⟨f s, [], fun g => by
    rw [h, gated_nil, List.append_nil]
    rfl⟩

theorem sendKeyByte_passesGate (scan : ScanCode) (isMake : Bool) (s : State) :
    PassesGate false id (sendKeyByte scan isMake) s :=
  ⟨s, [.kbdTx (keyByte scan isMake), .act], fun g => sendKeyByte_eq scan isMake { s with transmitInhibited := g }⟩

/-- The snapshot and the Repeat Timer are tracked under both values (R114). -/
theorem kbdReport_passesGate (cfg : Config) (mod : Byte) (keys : KeySlots) (s : State) :
    PassesGate false id (kbdReport cfg mod keys) s :=
  ⟨kbdReport cfg mod keys s, keyEventOutput (reportEvents cfg s.prevMod mod s.prevKeys keys), fun g => by
    simp only [kbdReport_eq, keyEvents_eq, Bool.false_and, if_neg Bool.false_ne_true, id]⟩

/-- The countdown runs and is loaded under both values (R177). -/
theorem tick_passesGate (e : Nat) (s : State) : PassesGate false id (tick e) s := by
  by_cases h0 : s.heldScanCode = 0
  · exact passesGate_of_silent fun g => by simp only [tick, if_pos h0, id]
  by_cases hc : s.countdownMs.toInt - e ≤ 0
  · obtain ⟨r, es, hr⟩ := sendKeyByte_passesGate (scanOfByte s.heldScanCode) true s
    exact ⟨{ r with countdownMs := msWord s.repeatIntervalMs }, es, fun g => by simp only [tick, if_neg h0, if_pos hc, hr]⟩
  · exact passesGate_of_silent fun g => by simp only [tick, if_neg h0, if_neg hc, id]

/-- The packet goes through the gate, and the accumulator is cleared only with the packet (R132). -/
theorem sendMousePacket_passesGate (b0 b1 b2 : Byte) (s : State) : PassesGate true id (sendMousePacket b0 b1 b2) s := by
  refine ⟨{ s with accDx := 0, accDy := 0 }, .mouseTx b0 b1 b2 :: if packetIsZero b0 b1 b2 then [] else [.act], fun g => ?_⟩
  cases g <;> simp [sendMousePacket_eq, gated]

theorem mouseTransmitAttempt_passesGate (s : State) : PassesGate true id mouseTransmitAttempt s :=
  sendMousePacket_passesGate (mouseByte0 s.btnLeft s.btnRight s.accDx s.accDy) (trunc8 s.accDx) (trunc8 s.accDy) s

/-- The register is written under both values; only a false-to-true transition attempts (R152). -/
theorem setMouseControl_passesGate (asserted : Bool) (s : State) :
    PassesGate (!s.mouseControlAsserted && asserted) id (setMouseControl asserted) s := by
  by_cases hrise : s.mouseControlAsserted = false ∧ asserted = true
  · obtain ⟨r, es, hr⟩ := mouseTransmitAttempt_passesGate { s with mouseControlAsserted := true }
    obtain ⟨hlow, rfl⟩ := hrise
    rw [hlow]
    exact ⟨r, es, fun g => (setMouseControl_eq true _).trans ((if_pos ⟨hlow, rfl⟩).trans (hr g))⟩
  · rw [show (!s.mouseControlAsserted && asserted) = false by simpa using hrise]
    exact passesGate_of_silent fun g => by simp only [setMouseControl_eq, if_neg hrise, id]

/-- The rows other than CTRL_BYTE, one by one. -/
theorem applied_passesGate_of_ne_ctrlByte {i : Instr} (hi : ∀ b, i ≠ .ctrlByte b) (s : State) :
    PassesGate (attemptsMouseTransmit i s) (gateAfter i) (applied i) s := by
  cases i with
  | msctrl m x => exact setMouseControl_passesGate (activeLow m) s
  | kbdReport m k0 k1 k2 k3 k4 k5 => exact kbdReport_passesGate Config.installed m ⟨k0, k1, k2, k3, k4, k5⟩ s
  | tick e => exact tick_passesGate e s
  | mreqFall => exact mouseTransmitAttempt_passesGate s
  | kbdTx brk scan => exact sendKeyByte_passesGate scan (!brk) s
  | mouseTx yon yop xon xop right left dx dy => exact sendMousePacket_passesGate _ dx dy s
  | ctrlByte b => exact absurd rfl (hi b)
  | ledbrt | keyinh | rptdly | rptint | ledset | ctrlNop00 | ctrlNop48 | ctrlNop50 | reset | mouseReport | inhibitFall
  | inhibitRise | mreqRise => exact passesGate_of_silent fun _ => rfl

/-- No control byte selects a row that moves the gate flag. -/
theorem gateAfter_resolved (i : Instr) : gateAfter i.resolved = gateAfter i := by
  cases i with
  | ctrlByte b =>
    rcases decodeCtrl_shapes b with
      ⟨_, _, h⟩ | ⟨_, h⟩ | ⟨_, _, h⟩ | ⟨_, h⟩ | ⟨_, h⟩ | ⟨_, h⟩ | ⟨_, h⟩ | ⟨_, h⟩ | ⟨_, h⟩
    all_goals
      rw [Instr.resolved, h]
      rfl
  | _ => rfl

/-- The bytes `01000--0` are MSCTRL's with its active-low operand asserted (R152). -/
theorem masked_asserting : ∀ b : Byte, (b &&& 0xF9 == 0x40) = (decide (b &&& 0xF8 = 0x40) && b.extractLsb' 0 1 == 0) := by
  decide

/-- A control byte attempts just where its command does. -/
theorem attemptsMouseTransmit_resolved (i : Instr) (s : State) :
    attemptsMouseTransmit i.resolved s = attemptsMouseTransmit i s := by
  cases i with
  | ctrlByte b =>
    by_cases hsel : b &&& 0xF8 = 0x40
    · rw [Instr.resolved, decodeCtrl, if_pos hsel]
      simp only [attemptsMouseTransmit, masked_asserting, decide_eq_true hsel, Bool.true_and]
    · have hnone : attemptsMouseTransmit (.ctrlByte b) s = false := by
        simp only [attemptsMouseTransmit, masked_asserting, decide_eq_false hsel, Bool.false_and, Bool.and_false]
      rw [hnone, Instr.resolved, decodeCtrl, if_neg hsel]
      split_ifs <;> rfl
  | _ => rfl

theorem applied_passesGate (i : Instr) (s : State) :
    PassesGate (attemptsMouseTransmit i s) (gateAfter i) (applied i) s := by
  have h := applied_passesGate_of_ne_ctrlByte (resolved_ne_ctrlByte i) s
  rwa [show applied i.resolved = applied i from funext (applied_resolved i), gateAfter_resolved,
    attemptsMouseTransmit_resolved] at h

theorem applied_transmitInhibited (i : Instr) (s : State) :
    (applied i s).transmitInhibited = gateAfter i s.transmitInhibited := by
  obtain ⟨r, es, hr⟩ := applied_passesGate i s
  exact congrArg State.transmitInhibited (hr s.transmitInhibited)

theorem applied_outputs_of_inhibited (i : Instr) {s : State} (hgate : s.transmitInhibited = true) :
    (applied i s).outputs = s.outputs := by
  obtain ⟨r, es, hr⟩ := applied_passesGate i s
  calc (applied i s).outputs
      = (applied i { s with transmitInhibited := true }).outputs := by rw [← hgate]
    _ = s.outputs ++ gated true es := congrArg State.outputs (hr true)
    _ = s.outputs := List.append_nil _

/-! ### What the gate drops (R195) -/

/-- The gate is opened by INHIBIT_RISE and RESET only. -/
theorem gateAfter_true {i : Instr} (hi : i ≠ .inhibitRise ∧ i ≠ .reset) : gateAfter i true = true := by
  obtain ⟨hrise, hreset⟩ := hi
  cases i with
  | inhibitRise => exact absurd rfl hrise
  | reset => exact absurd rfl hreset
  | _ => rfl

theorem appliedAll_of_inhibited {is : List Instr} {s : State} (hgate : s.transmitInhibited = true)
    (his : ∀ i ∈ is, i ≠ .inhibitRise ∧ i ≠ .reset) :
    (appliedAll is s).outputs = s.outputs ∧ (appliedAll is s).transmitInhibited = true := by
  induction is generalizing s with
  | nil => exact ⟨rfl, hgate⟩
  | cons i is ih =>
    obtain ⟨hi, his⟩ := List.forall_mem_cons.mp his
    have hgate' : (applied i s).transmitInhibited = true := by
      rw [applied_transmitInhibited, hgate, gateAfter_true hi]
    obtain ⟨hout, hlast⟩ := ih hgate' his
    exact ⟨hout.trans (applied_outputs_of_inhibited i hgate), hlast⟩

/-- Settles O48: one operation from `applied_passesGate`, a run by induction on its operations. -/
theorem nothingEmittedWhileInhibited : Obligations.NothingEmittedWhileInhibited := by
  refine ⟨fun i s t hgate h => ?_, fun is s t hgate his h => ?_⟩
  · obtain rfl := exec_next h
    exact applied_outputs_of_inhibited i hgate
  · rw [runInstrs_eq, Host.Outcome.next.injEq] at h
    exact h ▸ appliedAll_of_inhibited hgate his

/-- Settles O49: both runs are `applied_passesGate` at their value of the flag, with the same rest. -/
theorem inhibitDropsOnlyOutput : Obligations.InhibitDropsOnlyOutput := by
  intro i s t u ht hu
  obtain rfl := exec_next ht
  obtain rfl := exec_next hu
  obtain ⟨r, es, hr⟩ := applied_passesGate i s
  rw [hr true, hr false]
  refine ⟨rfl, ?_⟩
  cases attemptsMouseTransmit i s with
  | true => exact ⟨rfl, rfl⟩
  | false => exact ⟨rfl, rfl⟩

/-! ### The two flags that gate nothing (R196) -/

/-- The state with the two flags of R196 at given values. -/
def State.withFlags (asserted inhibit : Bool) (s : State) : State :=
  { s with mouseControlAsserted := asserted, keyInhibit := inhibit }

/-- A state change that neither reads nor writes the two flags. -/
def CarriesFlags (f : State → State) : Prop := ∀ s a k, f (s.withFlags a k) = (f s).withFlags a k

theorem sendKeyByte_carriesFlags (scan : ScanCode) (isMake : Bool) : CarriesFlags (sendKeyByte scan isMake) := fun s a k => by
  simp only [sendKeyByte_eq, State.withFlags]

theorem kbdReport_carriesFlags (cfg : Config) (mod : Byte) (keys : KeySlots) : CarriesFlags (kbdReport cfg mod keys) :=
  fun s a k => by simp only [kbdReport_eq, keyEvents_eq, State.withFlags]

theorem tick_carriesFlags (e : Nat) : CarriesFlags (tick e) := by
  intro s a k
  have hsend := sendKeyByte_carriesFlags (scanOfByte s.heldScanCode) true s a k
  simp only [State.withFlags] at hsend ⊢
  simp only [tick, hsend]
  split_ifs <;> rfl

theorem sendMousePacket_carriesFlags (b0 b1 b2 : Byte) : CarriesFlags (sendMousePacket b0 b1 b2) := by
  intro s a k
  simp only [sendMousePacket_eq, State.withFlags]
  split <;> rfl

/-- Settles O51: the rows one by one; the shared operations carry the two flags along, the other rows do not touch them. -/
theorem controlFlagsGateNothing : Obligations.ControlFlagsGateNothing := by
  intro i s t a k hmsctrl hkeyinh hctrl hreset h
  obtain rfl := exec_next h
  refine (exec_eq i (s.withFlags a k)).trans (congrArg Host.Outcome.next ?_)
  cases i with
  | msctrl m x => exact absurd rfl (hmsctrl m x)
  | keyinh v x => exact absurd rfl (hkeyinh v x)
  | ctrlByte b => exact absurd rfl (hctrl b)
  | reset => exact absurd rfl hreset
  | kbdReport m k0 k1 k2 k3 k4 k5 => exact kbdReport_carriesFlags Config.installed m ⟨k0, k1, k2, k3, k4, k5⟩ s a k
  | tick e => exact tick_carriesFlags e s a k
  | mreqFall => exact sendMousePacket_carriesFlags _ _ _ s a k
  | kbdTx brk scan => exact sendKeyByte_carriesFlags scan (!brk) s a k
  | mouseTx yon yop xon xop right left dx dy => exact sendMousePacket_carriesFlags _ dx dy s a k
  | ledbrt | rptdly | rptint | ledset | ctrlNop00 | ctrlNop48 | ctrlNop50 | mouseReport | inhibitFall | inhibitRise
  | mreqRise => rfl

/-! ### The four edges (R190, R191, R193, R194, R197) -/

/-- A packet without motion is all zero just when no button is held (R133, R134). -/
theorem mouseByte0_still_eq_zero_iff :
    ∀ left right : Bool, mouseByte0 left right 0 0 = 0 ↔ left = false ∧ right = false := by decide

theorem trunc8_zero : trunc8 0 = 0 := by decide

/-- With the gate open an attempt sends its packet and clears the motion (R132, R134, R136). -/
theorem exec_mreqFall_of_open {s : State} (hgate : s.transmitInhibited = false) :
    let b0 := mouseByte0 s.btnLeft s.btnRight s.accDx s.accDy
    exec .mreqFall s = .next { s with
      accDx := 0
      accDy := 0
      outputs := s.outputs ++ .mouseTx b0 (trunc8 s.accDx) (trunc8 s.accDy) ::
        if b0 = 0 ∧ trunc8 s.accDx = 0 ∧ trunc8 s.accDy = 0 then [] else [.act] } := by
  rw [exec_eq, applied, mouseTransmitAttempt_eq, if_neg (Bool.not_eq_true _ ▸ hgate)]
  simp only [packetIsZero_iff]

/-- Settles O34: `exec_mreqFall_of_open` at the first edge, and at the second, where the motion is zero. -/
theorem mouseRequestTransmits : Obligations.MouseRequestTransmits := by
  refine fun s => ⟨fun hgate => ?_, fun hgate => ⟨exec_mreqFall_of_open hgate, ?_⟩⟩
  · rw [exec_eq, applied, mouseTransmitAttempt_eq, if_pos hgate]
  · refine (exec_mreqFall_of_open (s := { s with accDx := 0, accDy := 0, outputs := _ }) hgate).trans ?_
    simp only [trunc8_zero, mouseByte0_still_eq_zero_iff, and_true]

/-- Settles O45: the meaning of the row. -/
theorem inhibitFallSetsGate : Obligations.InhibitFallSetsGate := fun _ => rfl

/-- Settles O46: the meaning of the row. -/
theorem inhibitRiseClearsGate : Obligations.InhibitRiseClearsGate := fun _ => rfl

/-- Settles O47: the meaning of the row. -/
theorem mouseRequestRiseDoesNothing : Obligations.MouseRequestRiseDoesNothing := fun _ => rfl

/-- Settles O50: the request edges do not move the flag, the inhibit edges only write it. -/
theorem signalLinesAreIndependent : Obligations.SignalLinesAreIndependent := fun s =>
  ⟨⟨_, exec_eq .mreqFall s, applied_transmitInhibited .mreqFall s⟩, ⟨s, mouseRequestRiseDoesNothing s, rfl⟩,
    ⟨_, inhibitFallSetsGate s, rfl⟩, ⟨_, inhibitRiseClearsGate s, rfl⟩⟩

end Sys2Proof.Machine
end

section
/-! PROOFS. The statements of 60_exceptions.md: every operation completes (EveryOperationCompletes), a step without input holds
the state (StepHoldsWithoutInput), and which port can write which registers (PortsOwnTheirRegisters). The first two read off the
laws of `exec` and of the fetch; for the third, what each shared operation can write, then the rows one by one. -/

namespace Sys2Proof.Machine

/-! ### Completion and the empty input (R210, R222) -/

/-- Settles O8: `exec_eq` names the next state, and no operation touches the input to come. -/
theorem everyOperationCompletes : Obligations.EveryOperationCompletes := fun i s =>
  ⟨applied i s, exec_eq i s, applied_inputs i s⟩

/-- Settles O6: the fetch finds no transfer. -/
theorem stepHoldsWithoutInput : Obligations.StepHoldsWithoutInput := fun s hs => by
  simp only [step, fetch_nil hs]

/-! ### Who can write what (R220) -/

/-- The six registers of ControlConfig (R20) hold what they held. -/
def KeepsControlConfig (s t : State) : Prop :=
  t.mouseControlAsserted = s.mouseControlAsserted ∧ t.ledBrightness = s.ledBrightness ∧ t.keyInhibit = s.keyInhibit ∧
    t.repeatDelayMs = s.repeatDelayMs ∧ t.repeatIntervalMs = s.repeatIntervalMs ∧ t.ledState = s.ledState

/-- The snapshot (R13, R14) holds what it held. -/
def KeepsSnapshot (s t : State) : Prop := t.prevMod = s.prevMod ∧ t.prevKeys = s.prevKeys

/-- The button latches (R16) hold what they held. -/
def KeepsLatches (s t : State) : Prop := t.btnLeft = s.btnLeft ∧ t.btnRight = s.btnRight

/-- From `s` to `t`, port `p` writes no register that R220 gives to another port. -/
structure WritesOnlyOwned (p : Port) (s t : State) : Prop where
  controlConfig : p ≠ .input .ctrlByte → KeepsControlConfig s t
  snapshot : p ≠ .input .kbdReport → KeepsSnapshot s t
  latches : p ≠ .input .mouseReport → KeepsLatches s t
  gate : p ≠ .input .inhibitFall → p ≠ .input .inhibitRise → t.transmitInhibited = s.transmitInhibited

section Owners

variable {p : Port} {s t : State}

/-- A port that writes none of the four groups, whichever port it is. -/
theorem writesOnlyOwned_of_keeps (hconfig : KeepsControlConfig s t) (hsnap : KeepsSnapshot s t) (hlatch : KeepsLatches s t)
    (hgate : t.transmitInhibited = s.transmitInhibited) : WritesOnlyOwned p s t :=
  ⟨fun _ => hconfig, fun _ => hsnap, fun _ => hlatch, fun _ _ => hgate⟩

theorem writesOnlyOwned_ctrlByte (hsnap : KeepsSnapshot s t) (hlatch : KeepsLatches s t)
    (hgate : t.transmitInhibited = s.transmitInhibited) : WritesOnlyOwned (.input .ctrlByte) s t :=
  ⟨fun h => absurd rfl h, fun _ => hsnap, fun _ => hlatch, fun _ _ => hgate⟩

/-- The accumulator, the Repeat Timer and the output are in none of the four groups. -/
theorem writesOnlyOwned_motion_timer (p : Port) (s : State) (dx dy : Int) (held : Byte) (count : BitVec 32)
    (outs : List OutputEvent) :
    WritesOnlyOwned p s
      { s with accDx := dx, accDy := dy, heldScanCode := held, countdownMs := count, outputs := outs } :=
  writesOnlyOwned_of_keeps ⟨rfl, rfl, rfl, rfl, rfl, rfl⟩ ⟨rfl, rfl⟩ ⟨rfl, rfl⟩ rfl

end Owners

theorem sendMousePacket_writesOnlyOwned (p : Port) (b0 b1 b2 : Byte) (s : State) :
    WritesOnlyOwned p s (sendMousePacket b0 b1 b2 s) := by
  obtain ⟨dx, dy, outs, heq⟩ := sendMousePacket_frame b0 b1 b2 s
  exact heq ▸ writesOnlyOwned_motion_timer p s dx dy s.heldScanCode s.countdownMs outs

theorem sendKeyByte_writesOnlyOwned (p : Port) (scan : ScanCode) (isMake : Bool) (s : State) :
    WritesOnlyOwned p s (sendKeyByte scan isMake s) :=
  sendKeyByte_eq scan isMake s ▸ writesOnlyOwned_motion_timer p s s.accDx s.accDy s.heldScanCode s.countdownMs _

theorem tick_writesOnlyOwned (p : Port) (e : Nat) (s : State) : WritesOnlyOwned p s (tick e s) := by
  rcases tick_cases e s with ⟨-, ht⟩ | ⟨-, -, ht⟩ | ⟨-, -, ht⟩ <;> rw [ht]
  all_goals exact writesOnlyOwned_motion_timer p s s.accDx s.accDy s.heldScanCode _ _

/-- The events of a report move the timer and emit; beside them the report writes the snapshot (R90). -/
theorem kbdReport_writesOnlyOwned (cfg : Config) (mod : Byte) (keys : KeySlots) (s : State) :
    WritesOnlyOwned (.input .kbdReport) s (kbdReport cfg mod keys s) := by
  rw [kbdReport_eq, keyEvents_eq]
  exact ⟨fun _ => ⟨rfl, rfl, rfl, rfl, rfl, rfl⟩, fun h => absurd rfl h, fun _ => ⟨rfl, rfl⟩, fun _ _ => rfl⟩

/-- A report writes the accumulator and the latches (R130). -/
theorem mouseReport_writesOnlyOwned (buttons x y : Byte) (s : State) :
    WritesOnlyOwned (.input .mouseReport) s (mouseReport buttons x y s) :=
  ⟨fun _ => ⟨rfl, rfl, rfl, rfl, rfl, rfl⟩, fun _ => ⟨rfl, rfl⟩, fun h => absurd rfl h, fun _ _ => rfl⟩

theorem setMouseControl_writesOnlyOwned (asserted : Bool) (s : State) :
    WritesOnlyOwned (.input .ctrlByte) s (setMouseControl asserted s) := by
  obtain ⟨dx, dy, outs, heq⟩ := setMouseControl_frame asserted s
  exact heq ▸ writesOnlyOwned_ctrlByte ⟨rfl, rfl⟩ ⟨rfl, rfl⟩ rfl

/-- Whatever command a control byte selects, it writes ControlConfig and, for MSCTRL, what an attempt writes (R150, R159). -/
theorem ctrlByte_writesOnlyOwned (b : Byte) (s : State) :
    WritesOnlyOwned (.input .ctrlByte) s (applied (.ctrlByte b) s) := by
  rw [← applied_resolved, Instr.resolved]
  rcases decodeCtrl_shapes b with
    ⟨m, _, h⟩ | ⟨_, h⟩ | ⟨_, _, h⟩ | ⟨_, h⟩ | ⟨_, h⟩ | ⟨_, h⟩ | ⟨_, h⟩ | ⟨_, h⟩ | ⟨_, h⟩ <;> rw [h]
  · exact setMouseControl_writesOnlyOwned (activeLow m) s
  all_goals exact writesOnlyOwned_ctrlByte ⟨rfl, rfl⟩ ⟨rfl, rfl⟩ rfl

/-- Every operation but RESET writes, of the four groups, only the one its port owns. -/
theorem applied_writesOnlyOwned {i : Instr} (hreset : i ≠ .reset) (s : State) :
    WritesOnlyOwned (encode i).1 s (applied i s) := by
  cases i with
  | reset => exact absurd rfl hreset
  | msctrl m x => exact setMouseControl_writesOnlyOwned (activeLow m) s
  | ctrlByte b => exact ctrlByte_writesOnlyOwned b s
  | ledbrt | keyinh | rptdly | rptint | ledset | ctrlNop00 | ctrlNop48 | ctrlNop50 =>
    exact writesOnlyOwned_ctrlByte ⟨rfl, rfl⟩ ⟨rfl, rfl⟩ rfl
  | kbdReport m k0 k1 k2 k3 k4 k5 =>
    exact kbdReport_writesOnlyOwned Config.installed m ⟨k0, k1, k2, k3, k4, k5⟩ s
  | mouseReport buttons x y => exact mouseReport_writesOnlyOwned buttons x y s
  | inhibitFall =>
    exact ⟨fun _ => ⟨rfl, rfl, rfl, rfl, rfl, rfl⟩, fun _ => ⟨rfl, rfl⟩, fun _ => ⟨rfl, rfl⟩, fun h _ => absurd rfl h⟩
  | inhibitRise =>
    exact ⟨fun _ => ⟨rfl, rfl, rfl, rfl, rfl, rfl⟩, fun _ => ⟨rfl, rfl⟩, fun _ => ⟨rfl, rfl⟩, fun _ h => absurd rfl h⟩
  | tick e => exact tick_writesOnlyOwned _ e s
  | mreqFall => exact sendMousePacket_writesOnlyOwned _ _ _ _ s
  | mreqRise => exact writesOnlyOwned_motion_timer _ s s.accDx s.accDy s.heldScanCode s.countdownMs s.outputs
  | kbdTx brk scan => exact sendKeyByte_writesOnlyOwned _ scan (!brk) s
  | mouseTx yon yop xon xop right left dx dy => exact sendMousePacket_writesOnlyOwned _ _ dx dy s

/-- Settles O52: the rows one by one, each by what its shared operation can write. -/
theorem portsOwnTheirRegisters : Obligations.PortsOwnTheirRegisters := by
  intro i s t h hreset
  obtain rfl := exec_next h
  obtain ⟨hconfig, hsnap, hlatch, hgate⟩ := applied_writesOnlyOwned hreset s
  exact ⟨hconfig, hsnap, hlatch, hgate⟩

end Sys2Proof.Machine
end

section
/-! PROOFS. The statement of 70_reset_and_hazards.md: what RESET writes and what it leaves of the run
(ResetWritesEveryRegister). -/

namespace Sys2Proof.Machine

/-- Settles O55: the row performs `resetRegisters`, every register of which is the constant that `State.reset` holds there
(R6's two defaults among them); only the run's own two sequences are read from the state before. -/
theorem resetWritesEveryRegister : Obligations.ResetWritesEveryRegister := by
  intro s
  calc exec .reset s
    _ = .next (resetRegisters s) := exec_eq .reset s
    _ = _ := by simp only [resetRegisters, State.reset, Config.delayResetMs, Config.intervalResetMs]

end Sys2Proof.Machine
end
